-- ==== Sys2Proof/Word.lean ====
section
/-! DEFINITION. The word types of the block: widths and nothing else (spec/00_scope.md R9, spec/30_encoding.md R70). -/

namespace Sys2Proof

/-- An 8-bit value: a channel value, a corrected value, an emitted byte. -/
abbrev Byte := BitVec 8

/-- A word of the host data bus (R9: 32 bits). -/
abbrev Word := BitVec 32

/-- A packed color cell, `{G, R, B}` (R73). -/
abbrev Color := BitVec 24

/-- A line symbol as a 5-bit value, first-sent bit at bit 4 (R74, R144). -/
abbrev Symbol := BitVec 5

/-- A host transaction word `{EN, WE, ADDR, WDATA}` (R71). -/
abbrev Txn := BitVec 42

/-- The contents of the correction table, indexed by a channel value (R27). -/
abbrev Gamma := Vector Byte 256

/-- The contents of the 64 pixel registers (R21, R51). -/
abbrev PixStore := Vector Color 64

end Sys2Proof
end

