-- ==== Sys2Proof/Syntax.lean ====
section
/-! DEFINITION. The operations of the block: one constructor per row of spec/opcode_table.json. -/

namespace Sys2Proof

/-- The operations a host transaction word selects (spec/30_encoding.md R72) and the two line symbols (R74).
`i` is a pixel index `ADDR[5:0]`, `a` a whole reserved word address, `v` the write data `WDATA`, all 32 bits of it:
which bits a write ignores is said by its meaning. -/
inductive Instr where
  | nop
  | rdPix (i : BitVec 6)
  | rdLedCount
  | rdCtrl
  | rdStatus
  | rdRsvd43
  | rdRsvd44 (a : BitVec 8)
  | rdRsvd48 (a : BitVec 8)
  | rdRsvd50 (a : BitVec 8)
  | rdRsvd60 (a : BitVec 8)
  | rdRsvd80 (a : BitVec 8)
  | wrPix (i : BitVec 6) (v : Word)
  | wrLedCount (v : Word)
  | wrCtrl (v : Word)
  | wrStatus (v : Word)
  | wrRsvd43 (v : Word)
  | wrRsvd44 (a : BitVec 8) (v : Word)
  | wrRsvd48 (a : BitVec 8) (v : Word)
  | wrRsvd50 (a : BitVec 8) (v : Word)
  | wrRsvd60 (a : BitVec 8) (v : Word)
  | wrRsvd80 (a : BitVec 8) (v : Word)
  | sym1
  | sym0
  deriving DecidableEq, Repr

end Sys2Proof
end

