-- ==== Sys2Proof/WellFormed.lean ====
section
/-! DEFINITION. Which terms of `Instr` an encoding stands for: a reserved address lies in the range of its own row
(spec/30_encoding.md R72: "the reserved range is split into six match/mask rows per direction"). -/

namespace Sys2Proof

/-- `lo <= a <= hi`. -/
def addrIn (lo hi : Nat) (a : BitVec 8) : Bool :=
  decide (lo ≤ a.toNat) && decide (a.toNat ≤ hi)

/-- The check itself. Every other operand may take every value of its type. -/
def Instr.wf : Instr → Bool
  | .nop => true
  | .rdPix _ => true
  | .rdLedCount => true
  | .rdCtrl => true
  | .rdStatus => true
  | .rdRsvd43 => true
  | .rdRsvd44 a => addrIn 0x44 0x47 a
  | .rdRsvd48 a => addrIn 0x48 0x4F a
  | .rdRsvd50 a => addrIn 0x50 0x5F a
  | .rdRsvd60 a => addrIn 0x60 0x7F a
  | .rdRsvd80 a => addrIn 0x80 0xFF a
  | .wrPix _ _ => true
  | .wrLedCount _ => true
  | .wrCtrl _ => true
  | .wrStatus _ => true
  | .wrRsvd43 _ => true
  | .wrRsvd44 a _ => addrIn 0x44 0x47 a
  | .wrRsvd48 a _ => addrIn 0x48 0x4F a
  | .wrRsvd50 a _ => addrIn 0x50 0x5F a
  | .wrRsvd60 a _ => addrIn 0x60 0x7F a
  | .wrRsvd80 a _ => addrIn 0x80 0xFF a
  | .sym1 => true
  | .sym0 => true

/-- A term some word of the spec's encoding stands for. -/
abbrev Instr.WellFormed (i : Instr) : Prop := i.wf = true

end Sys2Proof
end

