-- ==== Sys2Proof/Decode.lean ====
section
/-! DEFINITION. The decoder (spec/30_encoding.md R71, R72, R74), total on every word, the encoder written from the same
tables (R71, R82), and the opcode table's own rows as data (spec/opcode_table.json). -/

namespace Sys2Proof

/-- A word to decode, in one of the two formats that select an operation (R70): a host transaction word of 42 bits, or
a line symbol's 5 bits in the low end of a byte. -/
inductive FetchWord where
  | txn (w : Txn)
  | sym (b : Byte)
  deriving DecidableEq, Repr

/-- Why a word is no instruction. -/
inductive DecodeError where
  /-- The byte is neither `11100` nor `10000` (R74: "Only these two patterns ever occur"). -/
  | notALineSymbol (b : Byte)
  deriving DecidableEq, Repr

/-! ## The fields of a transaction word (R71) -/

/-- `EN`, bit 41. -/
def Txn.en (w : Txn) : Bool := w.getLsbD 41

/-- `WE`, bit 40. -/
def Txn.we (w : Txn) : Bool := w.getLsbD 40

/-- `ADDR`, bits 39:32. -/
def Txn.addr (w : Txn) : BitVec 8 := w.extractLsb' 32 8

/-- `WDATA`, bits 31:0. -/
def Txn.wdata (w : Txn) : Word := w.extractLsb' 0 32

/-- The word `{EN, WE, ADDR, WDATA}` (R71, R82). -/
def Txn.mk (en we : Bool) (a : BitVec 8) (v : Word) : Txn :=
  BitVec.ofBool en ++ BitVec.ofBool we ++ a ++ v

/-! ## Decoding (R72) -/

/-- The read at word address `a`. -/
def decodeRead (a : BitVec 8) : Instr :=
  if a.extractLsb' 6 2 = 0 then .rdPix (a.extractLsb' 0 6)
  else if a = 0x40 then .rdLedCount
  else if a = 0x41 then .rdCtrl
  else if a = 0x42 then .rdStatus
  else if a = 0x43 then .rdRsvd43
  else if a.toNat ≤ 0x47 then .rdRsvd44 a
  else if a.toNat ≤ 0x4F then .rdRsvd48 a
  else if a.toNat ≤ 0x5F then .rdRsvd50 a
  else if a.toNat ≤ 0x7F then .rdRsvd60 a
  else .rdRsvd80 a

/-- The write of `v` at word address `a`. -/
def decodeWrite (a : BitVec 8) (v : Word) : Instr :=
  if a.extractLsb' 6 2 = 0 then .wrPix (a.extractLsb' 0 6) v
  else if a = 0x40 then .wrLedCount v
  else if a = 0x41 then .wrCtrl v
  else if a = 0x42 then .wrStatus v
  else if a = 0x43 then .wrRsvd43 v
  else if a.toNat ≤ 0x47 then .wrRsvd44 a v
  else if a.toNat ≤ 0x4F then .wrRsvd48 a v
  else if a.toNat ≤ 0x5F then .wrRsvd50 a v
  else if a.toNat ≤ 0x7F then .wrRsvd60 a v
  else .wrRsvd80 a v

/-- The one operation a transaction word stands for: no word is illegal (R72, R78). -/
def decodeTxn (w : Txn) : Instr :=
  if w.en then (if w.we then decodeWrite w.addr w.wdata else decodeRead w.addr) else .nop

/-- The line symbol a byte holds, its first-sent bit at bit 4 (R144); every other byte is refused by name. -/
def decodeSym (b : Byte) : Except DecodeError Instr :=
  if b = 0b11100 then .ok .sym1
  else if b = 0b10000 then .ok .sym0
  else .error (.notALineSymbol b)

/-- The decoder. -/
def decode : FetchWord → Except DecodeError Instr
  | .txn w => .ok (decodeTxn w)
  | .sym b => decodeSym b

/-! ## Encoding (R82; fields an operation ignores are written 0) -/

/-- The word of an instruction. -/
def encode : Instr → FetchWord
  | .nop => .txn (Txn.mk false false 0 0)
  | .rdPix i => .txn (Txn.mk true false (i.setWidth 8) 0)
  | .rdLedCount => .txn (Txn.mk true false 0x40 0)
  | .rdCtrl => .txn (Txn.mk true false 0x41 0)
  | .rdStatus => .txn (Txn.mk true false 0x42 0)
  | .rdRsvd43 => .txn (Txn.mk true false 0x43 0)
  | .rdRsvd44 a => .txn (Txn.mk true false a 0)
  | .rdRsvd48 a => .txn (Txn.mk true false a 0)
  | .rdRsvd50 a => .txn (Txn.mk true false a 0)
  | .rdRsvd60 a => .txn (Txn.mk true false a 0)
  | .rdRsvd80 a => .txn (Txn.mk true false a 0)
  | .wrPix i v => .txn (Txn.mk true true (i.setWidth 8) v)
  | .wrLedCount v => .txn (Txn.mk true true 0x40 v)
  | .wrCtrl v => .txn (Txn.mk true true 0x41 v)
  | .wrStatus v => .txn (Txn.mk true true 0x42 v)
  | .wrRsvd43 v => .txn (Txn.mk true true 0x43 v)
  | .wrRsvd44 a v => .txn (Txn.mk true true a v)
  | .wrRsvd48 a v => .txn (Txn.mk true true a v)
  | .wrRsvd50 a v => .txn (Txn.mk true true a v)
  | .wrRsvd60 a v => .txn (Txn.mk true true a v)
  | .wrRsvd80 a v => .txn (Txn.mk true true a v)
  | .sym1 => .sym 0b11100
  | .sym0 => .sym 0b10000

/-! ## The opcode table as data -/

/-- A row of spec/opcode_table.json in the TXN format: a word is the row's when `w & mask = pattern`. -/
structure Row where
  mnemonic : String
  pattern  : Txn
  mask     : Txn
  deriving DecidableEq, Repr

/-- Whether a word is the row's. -/
def Row.accepts (r : Row) (w : Txn) : Bool := w &&& r.mask == r.pattern

/-- The rows for reads and for no transaction, in the table's order. -/
def readRows : List Row :=
  [ ⟨"NOP",            0x00000000000, 0x20000000000⟩,
    ⟨"RD_PIX",         0x20000000000, 0x3C000000000⟩,
    ⟨"RD_LED_COUNT",   0x24000000000, 0x3FF00000000⟩,
    ⟨"RD_CTRL",        0x24100000000, 0x3FF00000000⟩,
    ⟨"RD_STATUS",      0x24200000000, 0x3FF00000000⟩,
    ⟨"RD_RSVD_43",     0x24300000000, 0x3FF00000000⟩,
    ⟨"RD_RSVD_44_47",  0x24400000000, 0x3FC00000000⟩,
    ⟨"RD_RSVD_48_4F",  0x24800000000, 0x3F800000000⟩,
    ⟨"RD_RSVD_50_5F",  0x25000000000, 0x3F000000000⟩,
    ⟨"RD_RSVD_60_7F",  0x26000000000, 0x3E000000000⟩,
    ⟨"RD_RSVD_80_FF",  0x28000000000, 0x38000000000⟩ ]

/-- The rows for writes, in the table's order. -/
def writeRows : List Row :=
  [ ⟨"WR_PIX",         0x30000000000, 0x3C000000000⟩,
    ⟨"WR_LED_COUNT",   0x34000000000, 0x3FF00000000⟩,
    ⟨"WR_CTRL",        0x34100000000, 0x3FF00000000⟩,
    ⟨"WR_STATUS",      0x34200000000, 0x3FF00000000⟩,
    ⟨"WR_RSVD_43",     0x34300000000, 0x3FF00000000⟩,
    ⟨"WR_RSVD_44_47",  0x34400000000, 0x3FC00000000⟩,
    ⟨"WR_RSVD_48_4F",  0x34800000000, 0x3F800000000⟩,
    ⟨"WR_RSVD_50_5F",  0x35000000000, 0x3F000000000⟩,
    ⟨"WR_RSVD_60_7F",  0x36000000000, 0x3E000000000⟩,
    ⟨"WR_RSVD_80_FF",  0x38000000000, 0x38000000000⟩ ]

/-- The 21 TXN rows. -/
def txnRows : List Row := readRows ++ writeRows

/-- The place of an instruction's row in the opcode table, counted from 0; 21 and 22 are the two SYM rows. -/
def Instr.rowIndex : Instr → Nat
  | .nop => 0
  | .rdPix _ => 1
  | .rdLedCount => 2
  | .rdCtrl => 3
  | .rdStatus => 4
  | .rdRsvd43 => 5
  | .rdRsvd44 _ => 6
  | .rdRsvd48 _ => 7
  | .rdRsvd50 _ => 8
  | .rdRsvd60 _ => 9
  | .rdRsvd80 _ => 10
  | .wrPix _ _ => 11
  | .wrLedCount _ => 12
  | .wrCtrl _ => 13
  | .wrStatus _ => 14
  | .wrRsvd43 _ => 15
  | .wrRsvd44 _ _ => 16
  | .wrRsvd48 _ _ => 17
  | .wrRsvd50 _ _ => 18
  | .wrRsvd60 _ _ => 19
  | .wrRsvd80 _ _ => 20
  | .sym1 => 21
  | .sym0 => 22

/-! ## The table's numbering of bits -/

/-- The word the opcode table numbers as `w` in `nbits` bits (bit 0 the least significant): up to a byte it is of the
SYM format, above that of the TXN format. `none` where a bit stands that the format has no place for.
DESIGN CHOICE, notes/assumptions/13.md. -/
def tableWord (nbits w : Nat) : Option FetchWord :=
  if nbits ≤ 8 then (if w < 2 ^ 8 then some (.sym (BitVec.ofNat 8 w)) else none)
  else (if w < 2 ^ 42 then some (.txn (BitVec.ofNat 42 w)) else none)

/-- The instruction the decoder reads from the bits `w`, numbered as the opcode table numbers them. -/
def decodeTableWord (nbits w : Nat) : Option Instr :=
  match tableWord nbits w with
  | some f => (decode f).toOption
  | none => none

end Sys2Proof
end

