-- ==== Sys2Proof/Config.lean ====
section
/-! DEFINITION. What the implementation fixes, and the free values: the constants without a body are values the spec
leaves open, and nothing in Lean can evaluate them. -/

namespace Sys2Proof.Config

/-- `MAX_LEDS` (spec/00_scope.md R9). -/
def maxLeds : Nat := 64

/-- The value of `PIX[i]` after the reset edge of draw `k`: "any value: each entry is a free 24-bit draw at every reset"
(spec/93_implementation_defined.md I2; spec/70_reset_and_hazards.md R230). DESIGN CHOICE, notes/assumptions/3.md. -/
opaque freeCell : Nat → BitVec 6 → Color

/-- The host transaction of a cycle the script says nothing about: a free input (spec/00_scope.md R5).
DESIGN CHOICE, notes/assumptions/2.md. -/
opaque freeTxn : Nat → Txn

/-- The sink's `out_ready` in such a cycle (spec/00_scope.md R5). DESIGN CHOICE, notes/assumptions/2.md. -/
opaque freeReady : Nat → Bool

/-- The `rst` pin in such a cycle. DESIGN CHOICE, notes/assumptions/2.md. -/
opaque freeRst : Nat → Bool

/-- `RowByte(P, n, p)` where the pixel entry it would read does not exist: outside the domain spec/41_datapath.md R148
gives it, so no value is stated. DESIGN CHOICE, notes/assumptions/10.md. -/
opaque unstatedRowByte : Nat → Nat → Byte

/-- `BIT_RATE` of the one-wire line: OPEN, the sink's (R9, D21). That it is a rational number, in bits per second, is a
DESIGN CHOICE, notes/assumptions/15.md: the spec gives it no number type. -/
opaque bitRate : ℚ

/-- `CLK_HZ`: OPEN; no rule depends on it (R9, D20). That it is a rational number, in cycles per second, is a
DESIGN CHOICE, notes/assumptions/15.md. -/
opaque clkHz : ℚ

/-- `LATCH_TIME`: OPEN, the sink's (R9, D27). That it is a rational number, in seconds, is a DESIGN CHOICE,
notes/assumptions/15.md: the spec gives it neither number type nor unit. -/
opaque latchTime : ℚ

/-- `IDLE_LEVEL` of the line between rows: OPEN, the sink's (R9, D27). That it is one of two levels is a DESIGN CHOICE,
notes/assumptions/15.md. -/
opaque idleLevel : Bool

end Sys2Proof.Config
end

