-- ==== Sys2Proof/Machine/Datapath.lean ====
section
/-! DEFINITION. The computation of the block, pure functions (spec/41_datapath.md). `g` is the correction table. -/

namespace Sys2Proof.Machine

/-- `CORRECT v` (R140): `GAMMA[v]`. -/
def correct (g : Gamma) (v : Byte) : Byte := g[v.toNat]'v.isLt

/-- `CHAN(x, k)` (R143): green, red, blue in output order. -/
def chan (x : Color) : Fin 3 → Byte
  | 0 => x.extractLsb' 16 8
  | 1 => x.extractLsb' 8 8
  | 2 => x.extractLsb' 0 8

/-- `SYM(b)` (R144), first-sent bit at bit 4. -/
def sym (b : Bool) : Symbol := if b then 0b11100 else 0b10000

/-- `EXPAND(c)` (R145): the 40-bit channel code, first-sent bit at bit 39. -/
def expand (c : Byte) : BitVec 40 :=
  sym (c.getLsbD 7) ++ sym (c.getLsbD 6) ++ sym (c.getLsbD 5) ++ sym (c.getLsbD 4)
  ++ sym (c.getLsbD 3) ++ sym (c.getLsbD 2) ++ sym (c.getLsbD 1) ++ sym (c.getLsbD 0)

/-- `CHBYTES(c)` (R146): the channel code's bytes in emission order. -/
def chBytes (c : Byte) : Vector Byte 5 :=
  #v[(expand c).extractLsb' 32 8, (expand c).extractLsb' 24 8, (expand c).extractLsb' 16 8,
     (expand c).extractLsb' 8 8, (expand c).extractLsb' 0 8]

/-- `CHBYTES(GAMMA[CHAN(x, k)])`: the code of one channel of a cell. -/
def chanCode (g : Gamma) (x : Color) (k : Fin 3) : Vector Byte 5 := chBytes (correct g (chan x k))

/-- `ENCODE_LED(x)` (R147). -/
def encodeLed (g : Gamma) (x : Color) : List Byte :=
  (chanCode g x 0).toList ++ (chanCode g x 1).toList ++ (chanCode g x 2).toList

/-- The index of the trailing byte of a row of `n` LEDs, `15*n + 1` (R148). -/
def lastIndex (n : Nat) : Nat := 15 * n + 1

/-- Byte `r` of the LED code of a cell, found without the whole code: channel `r div 5`, byte `r mod 5` (R148). -/
def ledByte (g : Gamma) (x : Color) (r : Fin 15) : Byte :=
  (chanCode g x ⟨r.val / 5, by omega⟩)[r.val % 5]

/-- `RowByte(P, n, p)` (R148). Where `P[led]` does not exist the value is free (notes/assumptions/10.md). -/
def rowByte (g : Gamma) (P : PixStore) (n p : Nat) : Byte :=
  if p = 0 then 0x00
  else if p = lastIndex n then 0x00
  else if h : (p - 1) / 15 < 64 then ledByte g P[(p - 1) / 15] ⟨(p - 1) % 15, by omega⟩
  else Config.unstatedRowByte n p

/-- `EncodeRow(P, n)` (R149), `n` in 1..64. -/
def encodeRow (g : Gamma) (P : PixStore) (n : Nat) : List Byte :=
  [0x00] ++ ((P.toList.take n).map (encodeLed g)).flatten ++ [0x00]

end Sys2Proof.Machine
end

