-- ==== Sys2Proof/Machine/Gamma.lean ====
section
/-! DEFINITION. The default contents of the correction table (spec/41_datapath.md R141), as the spec prints them. -/

namespace Sys2Proof.Machine

/-- Entries 0x00 to 0x3F. -/
def gammaRows0 : List Byte :=
  [0x00, 0x00, 0x00, 0x00, 0x00, 0x00, 0x00, 0x00, 0x00, 0x00, 0x00, 0x00, 0x00, 0x00, 0x00, 0x00]
  ++ [0x00, 0x00, 0x00, 0x01, 0x01, 0x01, 0x01, 0x01, 0x01, 0x01, 0x01, 0x01, 0x01, 0x01, 0x01, 0x01]
  ++ [0x01, 0x01, 0x01, 0x01, 0x01, 0x01, 0x01, 0x01, 0x01, 0x01, 0x01, 0x02, 0x02, 0x02, 0x02, 0x02]
  ++ [0x02, 0x02, 0x02, 0x02, 0x02, 0x02, 0x02, 0x02, 0x02, 0x02, 0x03, 0x03, 0x03, 0x03, 0x03, 0x03]

theorem gammaRows0_length : gammaRows0.length = 64 := rfl

/-- Entries 0x40 to 0x7F. -/
def gammaRows1 : List Byte :=
  [0x03, 0x03, 0x03, 0x03, 0x03, 0x03, 0x04, 0x04, 0x04, 0x04, 0x04, 0x04, 0x04, 0x04, 0x04, 0x05]
  ++ [0x05, 0x05, 0x05, 0x05, 0x05, 0x05, 0x05, 0x06, 0x06, 0x06, 0x06, 0x06, 0x06, 0x06, 0x07, 0x07]
  ++ [0x07, 0x07, 0x07, 0x08, 0x08, 0x08, 0x08, 0x08, 0x09, 0x09, 0x09, 0x09, 0x09, 0x0A, 0x0A, 0x0A]
  ++ [0x0A, 0x0B, 0x0B, 0x0B, 0x0B, 0x0C, 0x0C, 0x0C, 0x0C, 0x0D, 0x0D, 0x0D, 0x0E, 0x0E, 0x0E, 0x0F]

theorem gammaRows1_length : gammaRows1.length = 64 := rfl

/-- Entries 0x80 to 0xBF. -/
def gammaRows2 : List Byte :=
  [0x0F, 0x0F, 0x10, 0x10, 0x10, 0x11, 0x11, 0x12, 0x12, 0x12, 0x13, 0x13, 0x14, 0x14, 0x15, 0x15]
  ++ [0x16, 0x16, 0x17, 0x17, 0x18, 0x18, 0x19, 0x19, 0x1A, 0x1A, 0x1B, 0x1C, 0x1C, 0x1D, 0x1E, 0x1E]
  ++ [0x1F, 0x20, 0x20, 0x21, 0x22, 0x23, 0x23, 0x24, 0x25, 0x26, 0x27, 0x28, 0x28, 0x29, 0x2A, 0x2B]
  ++ [0x2C, 0x2D, 0x2E, 0x2F, 0x30, 0x31, 0x33, 0x34, 0x35, 0x36, 0x37, 0x38, 0x3A, 0x3B, 0x3C, 0x3E]

theorem gammaRows2_length : gammaRows2.length = 64 := rfl

/-- Entries 0xC0 to 0xFF. -/
def gammaRows3 : List Byte :=
  [0x3F, 0x40, 0x42, 0x43, 0x45, 0x46, 0x48, 0x49, 0x4B, 0x4D, 0x4E, 0x50, 0x52, 0x54, 0x56, 0x58]
  ++ [0x5A, 0x5B, 0x5E, 0x60, 0x62, 0x64, 0x66, 0x68, 0x6B, 0x6D, 0x6F, 0x72, 0x74, 0x77, 0x7A, 0x7C]
  ++ [0x7F, 0x82, 0x85, 0x88, 0x8B, 0x8E, 0x91, 0x94, 0x97, 0x9B, 0x9E, 0xA1, 0xA5, 0xA9, 0xAC, 0xB0]
  ++ [0xB4, 0xB8, 0xBC, 0xC0, 0xC4, 0xC9, 0xCD, 0xD2, 0xD6, 0xDB, 0xE0, 0xE5, 0xEA, 0xEF, 0xF4, 0xFA]

theorem gammaRows3_length : gammaRows3.length = 64 := rfl

/-- `GAMMA_DEFAULT`, the table of R141. -/
def gammaDefault : Gamma :=
  ⟨(gammaRows0 ++ gammaRows1 ++ gammaRows2 ++ gammaRows3).toArray, by
    simp only [List.size_toArray, List.length_append, gammaRows0_length, gammaRows1_length, gammaRows2_length,
      gammaRows3_length]⟩

end Sys2Proof.Machine
end

