-- ==== Sys2Proof/Machine/State.lean ====
section
/-! DEFINITION. The state of the block (spec/10_state.md R21 to R28), the pins around it (R20), and the reasons a step
can stop. -/

namespace Sys2Proof.Machine

/-- Nothing faults: "The block raises no synchronous exception and takes no trap: no operation is refused, stalled or
redirected" (spec/60_exceptions.md R200). -/
inductive Fault where
  deriving DecidableEq, Repr

/-- Why a step is refused. -/
inductive Refusal where
  /-- `exec` has no meaning for the instruction. Raised by no arm of this model; safe. -/
  | notModelled (mnemonic : String)
  /-- A SYM-format byte that is neither line symbol (spec/30_encoding.md R74). Raised by the step when such a byte is
  put where a line-symbol operation is fetched; safe: it is no word of the opcode table (notes/assumptions/12.md). -/
  | notALineSymbol (b : Byte)
  deriving DecidableEq, Repr

/-- What the outside gives the machine for one step. -/
inductive Input where
  /-- One clock cycle: the host's transaction word, the sink's `out_ready`, and `rst` (R20, R174). -/
  | cycle (txn : Txn) (outReady rst : Bool)
  /-- One line-symbol operation of the datapath, its word in a byte (R144; notes/assumptions/5.md). -/
  | expand (b : Byte)
  deriving DecidableEq, Repr

/-- The output ports of one cycle (R20). -/
structure OutPorts where
  busRdata : Word
  outValid : Bool
  outData  : Byte
  outLast  : Bool
  irq      : Bool
  deriving DecidableEq, Repr

/-- The state. The first block of fields is the spec's (R21 to R27), the second the model's own (INVENTORY.md). -/
structure State where
  /-- `PIX[0..63]` (R21). -/
  pix      : PixStore
  /-- `LED_COUNT` (R22). -/
  ledCount : BitVec 8
  /-- `CTRL.IRQ_EN` (R23). -/
  irqEn    : Bool
  /-- `STATUS.BUSY` (R24, R25). -/
  busy     : Bool
  /-- `STATUS.DONE` (R24). -/
  done     : Bool
  /-- `STATUS.ERR_COUNT` (R24, R201). -/
  errCount : Bool
  /-- `STATUS.ERR_OVR` (R24, R202). -/
  errOvr   : Bool
  /-- `POS` (R26). -/
  pos      : BitVec 10
  /-- `GAMMA[0..255]` (R27): no step writes it. -/
  gamma    : Gamma
  /-- The pin `out_ready` in the current cycle (R20). -/
  outReady : Bool
  /-- The pins of the coming cycles, oldest first. -/
  inputs   : List Input
  /-- The output ports in the last cycle (R29, R100). -/
  ports    : OutPorts
  /-- The output byte stream so far, first byte first (spec/20_memory.md R50). -/
  emitted  : List Byte
  /-- The symbol the last SYM1 or SYM0 operation gave (R144). -/
  symOut   : Symbol
  /-- How many free draws have been made. -/
  draws    : Nat
  deriving DecidableEq, Repr

/-- The pixel registers after the reset edge of draw `k`: each one a free value (R230). -/
def freePix (k : Nat) : PixStore :=
  ⟨((List.range 64).map fun i => Config.freeCell k (BitVec.ofNat 6 i)).toArray, by
    simp only [List.size_toArray, List.length_map, List.length_range]⟩

/-- The ports of a block that is quiescent with no transaction and its interrupt masked (R232). -/
def OutPorts.idle : OutPorts :=
  { busRdata := 0, outValid := false, outData := 0x00, outLast := false, irq := false }

/-- `RESET_STATE` (R230, R232): `PIX` drawn freely, `GAMMA` the default table of R141. -/
def State.reset : State :=
  { pix := freePix 0, ledCount := 0x00, irqEn := false, busy := false, done := false, errCount := false,
    errOvr := false, pos := 0, gamma := gammaDefault, outReady := false, inputs := [], ports := OutPorts.idle,
    emitted := [], symOut := 0, draws := 1 }

end Sys2Proof.Machine
end

