-- ==== Sys2Proof/Machine/Operands.lean ====
section
/-! DEFINITION. The registers as the host reads and writes them (spec/10_state.md R21 to R24, spec/20_memory.md R52), and
the fields of the write data (spec/30_encoding.md R73). -/

namespace Sys2Proof.Machine

/-- `PIX[i]`. -/
def State.pixAt (s : State) (i : BitVec 6) : Color := s.pix[i.toNat]'i.isLt

/-- `PIX` with entry `i` replaced. -/
def setPix (P : PixStore) (i : BitVec 6) (c : Color) : PixStore := P.set i.toNat c i.isLt

/-! ## Write data -/

/-- `v[23:0]`, the cell a `WR_PIX` stores (R101). -/
def wdataCell (v : Word) : Color := v.extractLsb' 0 24

/-- `v[7:0]`, the count a `WR_LED_COUNT` stores (R103). -/
def wdataCount (v : Word) : BitVec 8 := v.extractLsb' 0 8

/-! ## Read data -/

/-- `zext_32(PIX[i])` (R102). -/
def State.readPix (s : State) (i : BitVec 6) : Word := (s.pixAt i).setWidth 32

/-- `zext_32(LED_COUNT)` (R104). -/
def State.readLedCount (s : State) : Word := s.ledCount.setWidth 32

/-- `{30'b0, IRQ_EN, 1'b0}` (R105). -/
def State.readCtrl (s : State) : Word := 0#30 ++ BitVec.ofBool s.irqEn ++ 0#1

/-- `{28'b0, ERR_OVR, ERR_COUNT, DONE, BUSY}` (R107). -/
def State.readStatus (s : State) : Word :=
  0#28 ++ BitVec.ofBool s.errOvr ++ BitVec.ofBool s.errCount ++ BitVec.ofBool s.done ++ BitVec.ofBool s.busy

/-- `BusRead(a)`: the register at word address `a` (R52); a reserved word reads 0 (R109). -/
def State.busRead (s : State) (a : BitVec 8) : Word :=
  if a.toNat < 0x40 then s.readPix (a.extractLsb' 0 6)
  else if a = 0x40 then s.readLedCount
  else if a = 0x41 then s.readCtrl
  else if a = 0x42 then s.readStatus
  else 0

/-- `bus_rdata` as a function of the state and the cycle's `bus_en`, `bus_we` and `bus_addr` (R20, R100). -/
def State.rdata (s : State) (w : Txn) : Word :=
  if w.en && !w.we then s.busRead w.addr else 0

end Sys2Proof.Machine
end

