-- ==== Sys2Proof/Machine/Flags.lean ====
section
/-! DEFINITION. The host's requests at an edge, what the sequencer adds, and how the flags come out of both
(spec/42_sequencer.md R172 to R174; spec/60_exceptions.md R201, R202, R205). -/

namespace Sys2Proof.Machine

/-- What a host operation asks of the edge that ends its cycle (R174): the registers it writes, and the requests
`start`, `set_ovr`, `set_cnt`, `clr_done`, `clr_cnt`, `clr_ovr`. -/
structure HostRequest where
  pix      : Option (BitVec 6 × Color)
  ledCount : Option (BitVec 8)
  irqEn    : Option Bool
  start    : Bool
  setOvr   : Bool
  setCnt   : Bool
  clrDone  : Bool
  clrCnt   : Bool
  clrOvr   : Bool
  deriving DecidableEq, Repr

/-- "otherwise: (reads, WR_RSVD, NOP change nothing)" (R174). -/
def HostRequest.nothing : HostRequest :=
  { pix := none, ledCount := none, irqEn := none, start := false, setOvr := false, setCnt := false,
    clrDone := false, clrCnt := false, clrOvr := false }

/-! ## The requests of the writes, all of which read the state before the edge -/

/-- `1 <= LED_COUNT <= MAX_LEDS` (R106). -/
def State.countLegal (s : State) : Bool :=
  decide (1 ≤ s.ledCount.toNat) && decide (s.ledCount.toNat ≤ Config.maxLeds)

/-- `WR_PIX i, v` (R101). -/
def wrPixRequest (i : BitVec 6) (v : Word) (s : State) : HostRequest :=
  if s.busy then { HostRequest.nothing with setOvr := true }
  else { HostRequest.nothing with pix := some (i, wdataCell v) }

/-- `WR_LED_COUNT v` (R103). -/
def wrLedCountRequest (v : Word) (s : State) : HostRequest :=
  if s.busy then { HostRequest.nothing with setOvr := true }
  else { HostRequest.nothing with ledCount := some (wdataCount v) }

/-- `WR_CTRL v` (R106): `IRQ_EN` always; with `v[0]` the START, which tests `BUSY` before the count (D32). -/
def wrCtrlRequest (v : Word) (s : State) : HostRequest :=
  let r := { HostRequest.nothing with irqEn := some (v.getLsbD 1) }
  if v.getLsbD 0 then
    if s.busy then { r with setOvr := true }
    else if s.countLegal then { r with start := true }
    else { r with setCnt := true }
  else r

/-- `WR_STATUS v` (R108): write one to clear; `v[0]` and `v[31:4]` are ignored. -/
def wrStatusRequest (v : Word) : HostRequest :=
  { HostRequest.nothing with clrDone := v.getLsbD 1, clrCnt := v.getLsbD 2, clrOvr := v.getLsbD 3 }

/-! ## The sequencer -/

/-- Whether `POS` is the index of the trailing byte. -/
def State.atLast (s : State) : Bool := s.pos.toNat == lastIndex s.ledCount.toNat

/-- `xfer`: the offered byte leaves at this edge (R172). -/
def State.xfer (s : State) : Bool := s.busy && s.outReady

/-- `seq_done`: it is the last byte of the row frame (R173). -/
def State.seqDone (s : State) : Bool := s.xfer && s.atLast

/-- `BUSY'` (R174). -/
def nextBusy (r : HostRequest) (s : State) : Bool :=
  if r.start then true else if s.seqDone then false else s.busy

/-- `POS'` (R174). -/
def nextPos (r : HostRequest) (s : State) : BitVec 10 :=
  if r.start then 0 else if s.seqDone then 0 else if s.xfer then s.pos + 1 else s.pos

/-! ## The flags: a set request beats a clear request (R174) -/

/-- `DONE'`. -/
def nextDone (r : HostRequest) (s : State) : Bool := s.seqDone || (s.done && !r.clrDone && !r.start)

/-- `ERR_COUNT'`. -/
def nextErrCount (r : HostRequest) (s : State) : Bool := r.setCnt || (s.errCount && !r.clrCnt)

/-- `ERR_OVR'`. -/
def nextErrOvr (r : HostRequest) (s : State) : Bool := r.setOvr || (s.errOvr && !r.clrOvr)

/-! ## The outputs as functions of the state (R29) -/

/-- `out_valid`. -/
def State.outValid (s : State) : Bool := s.busy

/-- `out_data`. -/
def State.outData (s : State) : Byte :=
  if s.busy then rowByte s.gamma s.pix s.ledCount.toNat s.pos.toNat else 0x00

/-- `out_last`. -/
def State.outLast (s : State) : Bool := s.busy && s.atLast

/-- `irq`, the level interrupt request (R205). -/
def State.irq (s : State) : Bool := s.irqEn && (s.done || s.errCount || s.errOvr)

/-- The output ports of a cycle that holds the state `s` and reads `rd` from the bus. -/
def State.portsNow (s : State) (rd : Word) : OutPorts :=
  { busRdata := rd, outValid := s.outValid, outData := s.outData, outLast := s.outLast, irq := s.irq }

end Sys2Proof.Machine
end

