-- ==== Sys2Proof/Machine/Ops.lean ====
section
/-! DEFINITION. The operations every instruction is made of: a clock edge, a reset edge, a line-symbol operation; and the
taking of the outside's next input. There is no exception to take and none to return from (spec/60_exceptions.md R200,
R207): an error is a request of the edge that sets its flag. -/

namespace Sys2Proof.Machine

/-- The state after a rising edge without reset (R174), for the host's requests `r` and the read data `rd` of the cycle.
The outputs are those of the state before the edge (R170). -/
def clockEdge (r : HostRequest) (rd : Word) (s : State) : State :=
  { s with
    pix      := match r.pix with | some (i, c) => setPix s.pix i c | none => s.pix
    ledCount := r.ledCount.getD s.ledCount
    irqEn    := r.irqEn.getD s.irqEn
    busy     := nextBusy r s
    pos      := nextPos r s
    done     := nextDone r s
    errCount := nextErrCount r s
    errOvr   := nextErrOvr r s
    ports    := s.portsNow rd
    emitted  := if s.xfer then s.emitted ++ [s.outData] else s.emitted }

/-- The state after a rising edge with `rst` = 1 (R230, R231): every register at its reset value, `PIX` drawn anew,
`GAMMA` unaffected, the cycle's transaction ignored and no byte transferred. -/
def resetEdge (rd : Word) (s : State) : State :=
  { s with
    pix      := freePix s.draws
    ledCount := 0x00
    irqEn    := false
    busy     := false
    pos      := 0
    done     := false
    errCount := false
    errOvr   := false
    ports    := s.portsNow rd
    draws    := s.draws + 1 }

/-- The result of a line-symbol operation (R144): no flag, no register, no clock edge of its own
(notes/assumptions/5.md). -/
def symOp (b : Bool) (s : State) : State := { s with symOut := sym b }

/-! ## Where the next operation comes from -/

/-- The input of the next step: the script's, or a cycle whose pins are free draws (R5). -/
def State.nextInput (s : State) : Input :=
  match s.inputs with
  | x :: _ => x
  | [] => .cycle (Config.freeTxn s.draws) (Config.freeReady s.draws) (Config.freeRst s.draws)

/-- The state once that input is taken. -/
def State.popInput (s : State) : State :=
  match s.inputs with
  | _ :: xs => { s with inputs := xs }
  | [] => { s with draws := s.draws + 1 }

/-- The sink's `out_ready` in this cycle. -/
def State.setReady (s : State) (rdy : Bool) : State := { s with outReady := rdy }

/-- The state's script with the word `f` as its next operation: in place of the next input, keeping that cycle's
`out_ready`, with `rst` = 0. -/
def State.withWord (s : State) (f : FetchWord) : State :=
  let rdy := match s.inputs with | .cycle _ b _ :: _ => b | _ => true
  let x : Input := match f with | .txn w => .cycle w rdy false | .sym b => .expand b
  { s with inputs := x :: s.inputs.tail }

end Sys2Proof.Machine
end

