-- ==== Sys2Proof/Machine/HostReads.lean ====
section
/-! DEFINITION. The reads of the host registers and the idle cycle (spec/40_host_ops.md): each is one clock cycle in which the host
asks nothing of the edge and the sequencer steps. -/

namespace Sys2Proof.Machine

/-- `NOP` (R111): `bus_rdata` = 0; "The sequencer still steps". -/
def execNop (s : State) : Host.Outcome State Fault Refusal :=
  .next (clockEdge HostRequest.nothing 0 s)

/-- `RD_PIX i` (R102). -/
def execRdPix (i : BitVec 6) (s : State) : Host.Outcome State Fault Refusal :=
  .next (clockEdge HostRequest.nothing (s.readPix i) s)

/-- `RD_LED_COUNT` (R104). -/
def execRdLedCount (s : State) : Host.Outcome State Fault Refusal :=
  .next (clockEdge HostRequest.nothing s.readLedCount s)

/-- `RD_CTRL` (R105). -/
def execRdCtrl (s : State) : Host.Outcome State Fault Refusal :=
  .next (clockEdge HostRequest.nothing s.readCtrl s)

/-- `RD_STATUS` (R107). -/
def execRdStatus (s : State) : Host.Outcome State Fault Refusal :=
  .next (clockEdge HostRequest.nothing s.readStatus s)

end Sys2Proof.Machine
end

