-- ==== Sys2Proof/Machine/HostWrites.lean ====
section
/-! DEFINITION. The writes of the host registers (spec/40_host_ops.md): each is one clock cycle with the requests of its rule;
nothing drives `bus_rdata` in it (R100). -/

namespace Sys2Proof.Machine

/-- `WR_PIX i, v` (R101). -/
def execWrPix (i : BitVec 6) (v : Word) (s : State) : Host.Outcome State Fault Refusal :=
  .next (clockEdge (wrPixRequest i v s) 0 s)

/-- `WR_LED_COUNT v` (R103). -/
def execWrLedCount (v : Word) (s : State) : Host.Outcome State Fault Refusal :=
  .next (clockEdge (wrLedCountRequest v s) 0 s)

/-- `WR_CTRL v` (R106). -/
def execWrCtrl (v : Word) (s : State) : Host.Outcome State Fault Refusal :=
  .next (clockEdge (wrCtrlRequest v s) 0 s)

/-- `WR_STATUS v` (R108). -/
def execWrStatus (v : Word) (s : State) : Host.Outcome State Fault Refusal :=
  .next (clockEdge (wrStatusRequest v) 0 s)

end Sys2Proof.Machine
end

