-- ==== Sys2Proof/Machine/LineSymbols.lean ====
section
/-! DEFINITION. The line symbols as operations of the datapath (spec/41_datapath.md R144): each gives its 5-bit symbol and nothing
else. The sequencer uses the same function `sym` for every bit it sends. -/

namespace Sys2Proof.Machine

/-- `SYM 1` (R144): `0b11100`. -/
def execSym1 (s : State) : Host.Outcome State Fault Refusal :=
  .next (symOp true s)

/-- `SYM 0` (R144): `0b10000`. -/
def execSym0 (s : State) : Host.Outcome State Fault Refusal :=
  .next (symOp false s)

end Sys2Proof.Machine
end

