-- ==== Sys2Proof/Machine/Reserved.lean ====
section
/-! DEFINITION. The reads and writes of the reserved word addresses (spec/40_host_ops.md R109, R110): a read gives 0, a write changes
nothing, and no flag is set, "even while busy". One definition per row of the opcode table. -/

namespace Sys2Proof.Machine

/-- `RD_RSVD a`, `a` = 0x43 (R109). -/
def execRdRsvd43 (s : State) : Host.Outcome State Fault Refusal :=
  .next (clockEdge HostRequest.nothing 0 s)

/-- `RD_RSVD a`, `a` in 0x44..0x47 (R109). -/
def execRdRsvd44 (_a : BitVec 8) (s : State) : Host.Outcome State Fault Refusal :=
  .next (clockEdge HostRequest.nothing 0 s)

/-- `RD_RSVD a`, `a` in 0x48..0x4F (R109). -/
def execRdRsvd48 (_a : BitVec 8) (s : State) : Host.Outcome State Fault Refusal :=
  .next (clockEdge HostRequest.nothing 0 s)

/-- `RD_RSVD a`, `a` in 0x50..0x5F (R109). -/
def execRdRsvd50 (_a : BitVec 8) (s : State) : Host.Outcome State Fault Refusal :=
  .next (clockEdge HostRequest.nothing 0 s)

/-- `RD_RSVD a`, `a` in 0x60..0x7F (R109). -/
def execRdRsvd60 (_a : BitVec 8) (s : State) : Host.Outcome State Fault Refusal :=
  .next (clockEdge HostRequest.nothing 0 s)

/-- `RD_RSVD a`, `a` in 0x80..0xFF (R109). -/
def execRdRsvd80 (_a : BitVec 8) (s : State) : Host.Outcome State Fault Refusal :=
  .next (clockEdge HostRequest.nothing 0 s)

/-- `WR_RSVD a, v`, `a` = 0x43 (R110). -/
def execWrRsvd43 (_v : Word) (s : State) : Host.Outcome State Fault Refusal :=
  .next (clockEdge HostRequest.nothing 0 s)

/-- `WR_RSVD a, v`, `a` in 0x44..0x47 (R110). -/
def execWrRsvd44 (_a : BitVec 8) (_v : Word) (s : State) : Host.Outcome State Fault Refusal :=
  .next (clockEdge HostRequest.nothing 0 s)

/-- `WR_RSVD a, v`, `a` in 0x48..0x4F (R110). -/
def execWrRsvd48 (_a : BitVec 8) (_v : Word) (s : State) : Host.Outcome State Fault Refusal :=
  .next (clockEdge HostRequest.nothing 0 s)

/-- `WR_RSVD a, v`, `a` in 0x50..0x5F (R110). -/
def execWrRsvd50 (_a : BitVec 8) (_v : Word) (s : State) : Host.Outcome State Fault Refusal :=
  .next (clockEdge HostRequest.nothing 0 s)

/-- `WR_RSVD a, v`, `a` in 0x60..0x7F (R110). -/
def execWrRsvd60 (_a : BitVec 8) (_v : Word) (s : State) : Host.Outcome State Fault Refusal :=
  .next (clockEdge HostRequest.nothing 0 s)

/-- `WR_RSVD a, v`, `a` in 0x80..0xFF (R110). -/
def execWrRsvd80 (_a : BitVec 8) (_v : Word) (s : State) : Host.Outcome State Fault Refusal :=
  .next (clockEdge HostRequest.nothing 0 s)

end Sys2Proof.Machine
end

