-- ==== Sys2Proof/Machine/Dispatch.lean ====
section
/-! DEFINITION. One arm per constructor of `Instr`. -/

namespace Sys2Proof.Machine

def exec (i : Instr) (s : State) : Host.Outcome State Fault Refusal :=
  match i with
  | .nop => Sys2Proof.Machine.execNop s
  | .rdPix k => Sys2Proof.Machine.execRdPix k s
  | .rdLedCount => Sys2Proof.Machine.execRdLedCount s
  | .rdCtrl => Sys2Proof.Machine.execRdCtrl s
  | .rdStatus => Sys2Proof.Machine.execRdStatus s
  | .rdRsvd43 => Sys2Proof.Machine.execRdRsvd43 s
  | .rdRsvd44 a => Sys2Proof.Machine.execRdRsvd44 a s
  | .rdRsvd48 a => Sys2Proof.Machine.execRdRsvd48 a s
  | .rdRsvd50 a => Sys2Proof.Machine.execRdRsvd50 a s
  | .rdRsvd60 a => Sys2Proof.Machine.execRdRsvd60 a s
  | .rdRsvd80 a => Sys2Proof.Machine.execRdRsvd80 a s
  | .wrPix k v => Sys2Proof.Machine.execWrPix k v s
  | .wrLedCount v => Sys2Proof.Machine.execWrLedCount v s
  | .wrCtrl v => Sys2Proof.Machine.execWrCtrl v s
  | .wrStatus v => Sys2Proof.Machine.execWrStatus v s
  | .wrRsvd43 v => Sys2Proof.Machine.execWrRsvd43 v s
  | .wrRsvd44 a v => Sys2Proof.Machine.execWrRsvd44 a v s
  | .wrRsvd48 a v => Sys2Proof.Machine.execWrRsvd48 a v s
  | .wrRsvd50 a v => Sys2Proof.Machine.execWrRsvd50 a v s
  | .wrRsvd60 a v => Sys2Proof.Machine.execWrRsvd60 a v s
  | .wrRsvd80 a v => Sys2Proof.Machine.execWrRsvd80 a v s
  | .sym1 => Sys2Proof.Machine.execSym1 s
  | .sym0 => Sys2Proof.Machine.execSym0 s

end Sys2Proof.Machine
end

