-- ==== Sys2Proof/Machine/Step.lean ====
section
/-! DEFINITION. One step: the next input is taken; a cycle with `rst` = 1 is a reset edge, a cycle without runs the
operation its transaction word decodes to (spec/42_sequencer.md R170, R174), and a line-symbol word runs its operation. -/

namespace Sys2Proof.Machine

/-- Runs the instruction a word decodes to, or refuses the word by name. -/
def runWord (f : FetchWord) (s : State) : Host.Outcome State Fault Refusal :=
  match decode f with
  | .ok i => exec i s
  | .error (.notALineSymbol b) => .refused (.notALineSymbol b)

/-- One clock cycle with the given pins (R174). -/
def runCycle (w : Txn) (rdy rst : Bool) (s : State) : Host.Outcome State Fault Refusal :=
  if rst then .next (resetEdge (s.rdata w) (s.setReady rdy))
  else runWord (.txn w) (s.setReady rdy)

/-- One step of the machine. -/
def step (s : State) : Host.Outcome State Fault Refusal :=
  match s.nextInput with
  | .cycle w rdy rst => runCycle w rdy rst s.popInput
  | .expand b => runWord (.sym b) s.popInput

/-- `s` with the table's word `w` as its next operation; unchanged where the word has no place in its format. -/
def State.withFetchWord (s : State) (nbits w : Nat) : State :=
  match tableWord nbits w with
  | some f => s.withWord f
  | none => s

end Sys2Proof.Machine
end

