-- ==== Sys2Proof/Machine/Script.lean ====
section
/-! DEFINITION. Host command scripts (spec/30_encoding.md R81 to R83): statements, how they assemble, what the
pseudo-instructions expand to, the polling loops, and the reading of a script line. -/

namespace Sys2Proof.Machine

/-! ## Statements (R81, R82) -/

/-- A register of a script; `raw` is `@imm8`. -/
inductive Reg where
  | pix (i : BitVec 6)
  | ledCount
  | ctrl
  | status
  | raw (a : BitVec 8)
  deriving DecidableEq, Repr

/-- The two machine statements and the idle cycle. -/
inductive Stmt where
  | nop
  | rd (r : Reg)
  | wr (r : Reg) (v : Word)
  deriving DecidableEq, Repr

/-- `addr(r)` (R82). -/
def Reg.addr : Reg → BitVec 8
  | .pix i => i.setWidth 8
  | .ledCount => 0x40
  | .ctrl => 0x41
  | .status => 0x42
  | .raw a => a

/-- The transaction word of a statement (R82). -/
def Stmt.assemble : Stmt → Txn
  | .nop => Txn.mk false false 0 0
  | .rd r => Txn.mk true false r.addr 0
  | .wr r v => Txn.mk true true r.addr v

/-! ## Pseudo-instructions (R83) -/

/-- The condition a polling loop waits for in the read data of `rd STATUS`. -/
inductive Poll where
  | idle
  | done
  deriving DecidableEq, Repr

/-- The pseudo-instructions of R83. -/
inductive Pseudo where
  | start
  | startIe
  | irqOn
  | irqOff
  | clrst
  | ldrow (cells : List Word)
  | waitFor (c : Poll)
  | nops (k : Nat)
  deriving DecidableEq, Repr

/-- One item of an expanded script: a statement, which takes one cycle, or a polling loop. -/
inductive Item where
  | one (st : Stmt)
  | loop (c : Poll)
  deriving DecidableEq, Repr

/-- `wr PIX[k], c_0`, `wr PIX[k+1], c_1`, ... -/
def loadFrom : Nat → List Word → List Item
  | _, [] => []
  | k, c :: cs => .one (.wr (.pix (BitVec.ofNat 6 k)) c) :: loadFrom (k + 1) cs

/-- The expansion of a pseudo-instruction; none for a row of more cells than `PIX` has (notes/assumptions/20.md). -/
def Pseudo.expand : Pseudo → Option (List Item)
  | .start => some [.one (.wr .ctrl 0x1)]
  | .startIe => some [.one (.wr .ctrl 0x3)]
  | .irqOn => some [.one (.wr .ctrl 0x2)]
  | .irqOff => some [.one (.wr .ctrl 0x0)]
  | .clrst => some [.one (.wr .status 0xE)]
  | .ldrow cells =>
    if cells.length ≤ Config.maxLeds then
      some (loadFrom 0 cells ++ [.one (.wr .ledCount (BitVec.ofNat 32 cells.length))])
    else none
  | .waitFor c => some [.loop c]
  | .nops k => some (List.replicate k (.one .nop))

/-- The host's procedure for one row (spec/70_reset_and_hazards.md R234): wait until the block is not busy, load the cells and the count,
START (keeping `IRQ_EN` set where asked). -/
def encodeRowScript (cells : List Word) (keepIrq : Bool) : Option (List Item) :=
  match (Pseudo.ldrow cells).expand, (if keepIrq then Pseudo.startIe else Pseudo.start).expand with
  | some load, some go => some (.loop .idle :: load ++ go)
  | _, _ => none

/-! ## Running a script -/

/-- Whether the read data ends the loop (R83): `bus_rdata[0]` = 0, or `bus_rdata[1]` = 1. -/
def Poll.met (c : Poll) (rdata : Word) : Bool :=
  match c with
  | .idle => !rdata.getLsbD 0
  | .done => rdata.getLsbD 1

/-- One cycle with the given transaction and `out_ready`, without reset. -/
def hostCycle (w : Txn) (rdy : Bool) (s : State) : Host.Outcome State Fault Refusal :=
  step { s with inputs := .cycle w rdy false :: s.inputs }

/-- Runs a script against the sink's `out_ready` of each cycle, until the script ends or the cycles given do: a loop
issues one `rd STATUS` per cycle and ends in the cycle whose read data meets its condition (R83). -/
def runScript : List Bool → List Item → State → Host.Outcome State Fault Refusal
  | [], _, s => .next s
  | _ :: _, [], s => .next s
  | rdy :: rdys, .one st :: items, s =>
    match hostCycle st.assemble rdy s with
    | .next t => runScript rdys items t
    | .fault f => .fault f
    | .refused r => .refused r
  | rdy :: rdys, .loop c :: items, s =>
    match hostCycle (Stmt.rd .status).assemble rdy s with
    | .next t => runScript rdys (if c.met t.ports.busRdata then items else .loop c :: items) t
    | .fault f => .fault f
    | .refused r => .refused r

/-! ## Reading a line (R81) -/

/-- A token of a line: a word (a mnemonic, a register's name, a number, a label) or a mark. -/
inductive Tok where
  | word (cs : List Char)
  | mark (c : Char)
  deriving DecidableEq, Repr

/-- A line of a script: its label, if it has one, and its items. -/
structure Line where
  label : Option (List Char)
  items : List Item
  deriving DecidableEq, Repr

/-- The characters of mnemonics, names and numbers. -/
def isWordChar (c : Char) : Bool := c.isAlphanum || c == '_' || c == '.'

/-- Tokens of a line up to its comment; `acc` is the word being read, last character first. -/
def lexLine : List Char → List Char → List Tok
  | [], acc => if acc.isEmpty then [] else [.word acc.reverse]
  | c :: cs, acc =>
    let flushed := if acc.isEmpty then [] else [Tok.word acc.reverse]
    if c == ';' then flushed
    else if isWordChar c then lexLine cs (c :: acc)
    else if c.isWhitespace then flushed ++ lexLine cs []
    else flushed ++ .mark c :: lexLine cs []

/-- The value of a digit in a base up to 16. -/
def digitValue (base : Nat) (c : Char) : Option Nat :=
  let n := c.toNat
  let d := if c.isDigit then n - 48 else if 65 ≤ n && n ≤ 70 then n - 55 else if 97 ≤ n && n ≤ 102 then n - 87 else 16
  if d < base then some d else none

/-- A numeral's value, after `acc`. -/
def digitsValue (base : Nat) : List Char → Nat → Option Nat
  | [], acc => some acc
  | c :: cs, acc =>
    match digitValue base c with
    | some d => digitsValue base cs (acc * base + d)
    | none => none

/-- A decimal or `0x`-hexadecimal number. -/
def readNumber : List Char → Option Nat
  | '0' :: 'x' :: [] => none
  | '0' :: 'x' :: ds => digitsValue 16 ds 0
  | [] => none
  | ds => digitsValue 10 ds 0

/-- A number below `bound`. -/
def numberBelow (bound : Nat) (cs : List Char) : Option Nat :=
  match readNumber cs with
  | some n => if n < bound then some n else none
  | none => none

/-- A register at the head of the tokens, and the rest. R81 names the bases of `idx`, not of `imm8`: that `imm8` takes the same
two is a DESIGN CHOICE, notes/assumptions/19.md. -/
def readReg : List Tok → Option (Reg × List Tok)
  | .word ['P', 'I', 'X'] :: .mark '[' :: .word k :: .mark ']' :: rest =>
    (numberBelow 64 k).map fun n => (.pix (BitVec.ofNat 6 n), rest)
  | .word ['L', 'E', 'D', '_', 'C', 'O', 'U', 'N', 'T'] :: rest => some (.ledCount, rest)
  | .word ['C', 'T', 'R', 'L'] :: rest => some (.ctrl, rest)
  | .word ['S', 'T', 'A', 'T', 'U', 'S'] :: rest => some (.status, rest)
  | .mark '@' :: .word k :: rest => (numberBelow 256 k).map fun n => (.raw (BitVec.ofNat 8 n), rest)
  | _ => none

/-- An immediate of 32 bits. -/
def readImm (k : List Char) : Option Word := (numberBelow (2 ^ 32) k).map (BitVec.ofNat 32)

/-- `c_0, ..., c_{n-1}`, with `n` at least 1; `readStmt` reads an `ldrow` of no cells. -/
def readCells : List Tok → Option (List Word)
  | [] => none
  | .word k :: rest =>
    match readImm k, rest with
    | some v, [] => some [v]
    | some v, .mark ',' :: more => (readCells more).map (v :: ·)
    | _, _ => none
  | .mark _ :: _ => none

/-- The items of a statement or pseudo-instruction. A line with no statement has none, so it takes no cycle: R81 does not say
whether it takes one (DESIGN CHOICE, notes/assumptions/19.md). R83 gives the `k` of `nop k` neither range nor base: every
number is taken, 0 included, in either base (DESIGN CHOICE, notes/assumptions/19.md). Nor does it say whether `ldrow` may have no cells: it may,
and writes `LED_COUNT` only (DESIGN CHOICE, notes/assumptions/20.md). -/
def readStmt : List Tok → Option (List Item)
  | [] => some []
  | .mark _ :: _ => none
  | .word m :: args =>
    if m == ['n', 'o', 'p'] then
      match args with
      | [] => some [.one .nop]
      | [.word k] => (readNumber k).bind fun n => (Pseudo.nops n).expand
      | _ => none
    else if m == ['r', 'd'] then
      match readReg args with
      | some (r, []) => some [.one (.rd r)]
      | _ => none
    else if m == ['w', 'r'] then
      match readReg args with
      | some (r, [.mark ',', .word k]) => (readImm k).map fun v => [.one (.wr r v)]
      | _ => none
    else if m == ['l', 'd', 'r', 'o', 'w'] then
      (if args.isEmpty then some [] else readCells args).bind fun cs => (Pseudo.ldrow cs).expand
    else if !args.isEmpty then none
    else if m == ['s', 't', 'a', 'r', 't'] then Pseudo.start.expand
    else if m == ['s', 't', 'a', 'r', 't', '.', 'i', 'e'] then Pseudo.startIe.expand
    else if m == ['i', 'r', 'q', '.', 'o', 'n'] then Pseudo.irqOn.expand
    else if m == ['i', 'r', 'q', '.', 'o', 'f', 'f'] then Pseudo.irqOff.expand
    else if m == ['c', 'l', 'r', 's', 't'] then Pseudo.clrst.expand
    else if m == ['w', 'a', 'i', 't', '.', 'i', 'd', 'l', 'e'] then (Pseudo.waitFor .idle).expand
    else if m == ['w', 'a', 'i', 't', '.', 'd', 'o', 'n', 'e'] then (Pseudo.waitFor .done).expand
    else none

/-- A line, `[label ':'] [stmt] [';' comment]`. -/
def readLine (cs : List Char) : Option Line :=
  match lexLine cs [] with
  | .word l :: .mark ':' :: rest => (readStmt rest).map fun is => ⟨some l, is⟩
  | toks => (readStmt toks).map fun is => ⟨none, is⟩

end Sys2Proof.Machine
end

