-- ==== Sys2Proof/Machine/Timing.lean ====
section
/-! DEFINITION. Durations (spec/70_reset_and_hazards.md R242, R243): counts of cycles and of bit periods, and the
formulas over the OPEN rates. No step depends on them. -/

namespace Sys2Proof.Machine

/-- The bytes of the row frame of `n` LEDs, `15*n + 2` (R77): with `out_ready` = 1 throughout, also the cycles the block
is busy (R242). -/
def frameLength (n : Nat) : Nat := 15 * n + 2

/-- The bit periods a row frame of `n` LEDs lasts on the one-wire line (R243). -/
def frameBitPeriods (n : Nat) : Nat := frameLength n * 8

/-- The bit periods a logical bit lasts, `SYM_BITS` (R243, R9). -/
def symbolBitPeriods : Nat := 5

/-- The bit periods for which the line is high in the symbol of `b`: its leading ones (R243). -/
def symbolHighPeriods (b : Bool) : Nat := if b then 3 else 1

/-- The seconds a row frame of `n` LEDs lasts on the line: a formula over the OPEN `BIT_RATE` (R243). -/
def frameSeconds (n : Nat) : ℚ := (frameBitPeriods n : ℚ) / Config.bitRate

/-- The seconds the block is busy with a row of `n` LEDs when the sink never stalls: a formula over the OPEN `CLK_HZ`. -/
def busySeconds (n : Nat) : ℚ := (frameLength n : ℚ) / Config.clkHz

end Sys2Proof.Machine
end

