-- ==== Sys2Proof/Safety.lean ====
section
/-! DEFINITION. What the claims are stated in: the invariant of a good state, the spec's own equations for a cycle written
a second time in another shape (so that a claim compares two readings of the spec), and runs over a list of cycles. -/

namespace Sys2Proof.Safety

open Sys2Proof.Machine

/-! ## The invariant -/

/-- What R26, R106 and R173 say of every state a run reaches: while `BUSY` = 1 the count is legal, `0 <= POS <= 15*n + 1`
and `DONE` = 0; while `BUSY` = 0, `POS` = 0. -/
def GoodState (s : State) : Prop :=
  (s.busy = true → 1 ≤ s.ledCount.toNat ∧ s.ledCount.toNat ≤ 64 ∧ s.pos.toNat ≤ 15 * s.ledCount.toNat + 1 ∧
    s.done = false) ∧
  (s.busy = false → s.pos = 0)

/-- The one constraint on a correction table (R142): `GAMMA[0] <= GAMMA[v] <= GAMMA[255]`. -/
def GammaBounded (g : Gamma) : Prop :=
  ∀ v : Byte, correct g 0 ≤ correct g v ∧ correct g v ≤ correct g 255

/-! ## A cycle in which the host changes nothing (R29, R171 to R173) -/

/-- The ports of the cycle, by the equations of R29. -/
def portsR29 (rd : Word) (s : State) : OutPorts :=
  { busRdata := rd
    outValid := s.busy
    outData := if s.busy = true then rowByte s.gamma s.pix s.ledCount.toNat s.pos.toNat else 0x00
    outLast := s.busy && (s.pos.toNat == 15 * s.ledCount.toNat + 1)
    irq := s.irqEn && (s.done || s.errCount || s.errOvr) }

/-- The next state when only the sequencer acts: no transfer, the transfer of the last byte, or of another. -/
def quietCycle (rd : Word) (s : State) : State :=
  let shown := { s with ports := portsR29 rd s }
  let byte := rowByte s.gamma s.pix s.ledCount.toNat s.pos.toNat
  if s.busy = true ∧ s.outReady = true then
    if s.pos.toNat = 15 * s.ledCount.toNat + 1 then
      { shown with busy := false, pos := 0, done := true, emitted := s.emitted ++ [byte] }
    else { shown with pos := s.pos + 1, emitted := s.emitted ++ [byte] }
  else shown

/-- The cycle transfers the last byte of a row frame. -/
def lastTransfer (s : State) : Bool :=
  s.busy && s.outReady && (s.pos.toNat == 15 * s.ledCount.toNat + 1)

/-! ## `Step` of R174 as equations on the raw transaction word -/

/-- The spec's registers, less the constant `GAMMA`. -/
structure Arch where
  pix      : PixStore
  ledCount : BitVec 8
  irqEn    : Bool
  busy     : Bool
  pos      : BitVec 10
  done     : Bool
  errCount : Bool
  errOvr   : Bool
  deriving DecidableEq, Repr

/-- The spec's registers of a state. -/
def archOf (s : State) : Arch :=
  { pix := s.pix, ledCount := s.ledCount, irqEn := s.irqEn, busy := s.busy, pos := s.pos, done := s.done,
    errCount := s.errCount, errOvr := s.errOvr }

/-- `ADDR`, bits 39:32 of a transaction word, as a number. -/
def txnAddr (w : Txn) : Nat := (w.extractLsb' 32 8).toNat

/-- The word is a write to word address `a`. -/
def writesTo (w : Txn) (a : Nat) : Bool := w.getLsbD 41 && w.getLsbD 40 && (txnAddr w == a)

/-- The word is a write to a pixel register. -/
def writesPix (w : Txn) : Bool := w.getLsbD 41 && w.getLsbD 40 && decide (txnAddr w < 64)

/-- The word writes `CTRL` with `WDATA[0]` = 1. -/
def isStart (w : Txn) : Bool := writesTo w 0x41 && w.getLsbD 0

/-- The encoding of an operation (R72): every word with `EN` = 1, this `WE` and an address from `lo` to `hi` decodes to `f`
of the word. -/
def Encoded (we : Bool) (lo hi : Nat) (f : Txn → Instr) : Prop :=
  ∀ w : Txn, w.getLsbD 41 = true → w.getLsbD 40 = we → lo ≤ txnAddr w → txnAddr w ≤ hi → decodeTxn w = f w

/-- The legal counts of R22. -/
def legalCount (n : BitVec 8) : Bool := decide (1 ≤ n.toNat ∧ n.toNat ≤ 64)

/-- `Step(S, TXN, out_ready, 0)` of R174 as one equation per register. -/
def stepEquations (a : Arch) (w : Txn) (ready : Bool) : Arch :=
  let xfer := a.busy && ready
  let seqDone := xfer && (a.pos.toNat == 15 * a.ledCount.toNat + 1)
  let start := isStart w && !a.busy && legalCount a.ledCount
  let setCnt := isStart w && !a.busy && !legalCount a.ledCount
  let setOvr := a.busy && (writesPix w || writesTo w 0x40 || isStart w)
  { pix := if writesPix w && !a.busy then a.pix.set (w.extractLsb' 32 6).toNat (w.extractLsb' 0 24) (BitVec.isLt _) else a.pix
    ledCount := if writesTo w 0x40 && !a.busy then w.extractLsb' 0 8 else a.ledCount
    irqEn := if writesTo w 0x41 then w.getLsbD 1 else a.irqEn
    busy := start || (a.busy && !seqDone)
    pos := if start || seqDone then 0 else if xfer then a.pos + 1 else a.pos
    done := seqDone || (a.done && !(writesTo w 0x42 && w.getLsbD 1) && !start)
    errCount := setCnt || (a.errCount && !(writesTo w 0x42 && w.getLsbD 2))
    errOvr := setOvr || (a.errOvr && !(writesTo w 0x42 && w.getLsbD 3)) }

/-! ## Runs over cycles without reset -/

/-- The script of a list of cycles, each a transaction word and the sink's `out_ready`. -/
def script (cs : List (Txn × Bool)) : List Input := cs.map fun c => .cycle c.1 c.2 false

/-- In how many of the cycles the sink is ready. -/
def readyCount (cs : List (Txn × Bool)) : Nat := cs.countP fun c => c.2

/-- Group `k` of five bits of a channel code, counted from the first sent (R145). -/
def symbolAt (code : BitVec 40) (k : Nat) : Symbol := code.extractLsb' (35 - 5 * k) 5

end Sys2Proof.Safety
end

