-- ==== Sys2Proof/Certificates/Slice0/Obligations.lean ====
section
/-! DEFINITION. The statements for the provers. An instruction's statement gives the whole next state as an equality: every
field that is not written in it is as before, which is its frame. The block has no memory beside its registers. -/

open Sys2Proof Sys2Proof.Machine Sys2Proof.Safety

/-! ## Fetching, decoding, encoding -/

/-- A step runs the operation the next word decodes to, with the cycle's `out_ready` on its pin (R170, R72). The rest is the
model's choice: that a line-symbol input is a step of its own (notes/assumptions/5.md), that the coming cycles are a list in
State of which a step takes the head (notes/assumptions/1.md), and that the pins are free draws where the list is empty
(notes/assumptions/2.md). -/
def Obligations.StepRunsDecodedInstruction : Prop :=
  (∀ (s : State) (w : Txn) (rdy : Bool) (i : Instr), s.nextInput = .cycle w rdy false → decode (.txn w) = .ok i →
    step s = exec i { s.popInput with outReady := rdy }) ∧
  (∀ (s : State) (b : Byte) (i : Instr), s.nextInput = .expand b → decode (.sym b) = .ok i →
    step s = exec i s.popInput) ∧
  (∀ (s : State) (x : Input) (xs : List Input), s.inputs = x :: xs →
    s.nextInput = x ∧ s.popInput = { s with inputs := xs }) ∧
  (∀ s : State, s.inputs = [] →
    s.nextInput = .cycle (Config.freeTxn s.draws) (Config.freeReady s.draws) (Config.freeRst s.draws) ∧
    s.popInput = { s with draws := s.draws + 1 })

/-- The words of 95_test_vectors.md L2.5, R82 and the two symbols decode to what the spec says they are. -/
def Obligations.WrittenOutWordsDecode : Prop :=
  decode (.txn 0x00000000000) = .ok .nop ∧
  decode (.txn 0x1FFFFFFFFFF) = .ok .nop ∧
  decode (.txn 0x23F00000000) = .ok (.rdPix 63) ∧
  decode (.txn 0x24000000000) = .ok .rdLedCount ∧
  decode (.txn 0x24200000000) = .ok .rdStatus ∧
  decode (.txn 0x24300000000) = .ok .rdRsvd43 ∧
  decode (.txn 0x27F00000000) = .ok (.rdRsvd60 0x7F) ∧
  decode (.txn 0x2FF00000000) = .ok (.rdRsvd80 0xFF) ∧
  decode (.txn 0x30000140A1E) = .ok (.wrPix 0 0x00140A1E) ∧
  decode (.txn 0x305000A141E) = .ok (.wrPix 5 0x000A141E) ∧
  decode (.txn 0x341FFFFFFFF) = .ok (.wrCtrl 0xFFFFFFFF) ∧
  decode (.txn 0x3FFFFFFFFFF) = .ok (.wrRsvd80 0xFF 0xFFFFFFFF) ∧
  decode (.sym 0b11100) = .ok .sym1 ∧
  decode (.sym 0b10000) = .ok .sym0

/-- R71, R72, R74: decoding the encoding of any well-formed instruction gives it back, every operand at every value. -/
def Obligations.DecodeOfEncodeIsIdentity : Prop :=
  ∀ i : Instr, i.WellFormed → decode (encode i) = .ok i

/-- The other direction: a write's word is exactly its instruction's encoding, a read's word but for the `WDATA` it
ignores, an idle word but for every field it ignores, and a symbol's word exactly. That ignored bits are encoded as 0 is the
model's choice (notes/assumptions/14.md). -/
def Obligations.EncodeOfDecodeKeepsMeaningfulBits : Prop :=
  (∀ w : Txn, w.getLsbD 41 = true → w.getLsbD 40 = true → encode (decodeTxn w) = .txn w) ∧
  (∀ w : Txn, w.getLsbD 41 = true → w.getLsbD 40 = false →
    encode (decodeTxn w) = .txn (w &&& 0x3FF00000000)) ∧
  (∀ w : Txn, w.getLsbD 41 = false → encode (decodeTxn w) = .txn 0) ∧
  (∀ (b : Byte) (i : Instr), decode (.sym b) = .ok i → encode i = .sym b)

/-- R72: the decoder gives the operation of each line of its table, the reserved reads and writes in the rows of
opcode_table.json, and each word matches exactly one of the 21 rows, that of the operation it decodes to. -/
def Obligations.EachTxnMatchesExactlyItsRow : Prop :=
  (∀ w : Txn, w.getLsbD 41 = false → decodeTxn w = .nop) ∧
  (∀ w : Txn, w.getLsbD 41 = true → w.getLsbD 40 = false →
    (txnAddr w < 64 → decodeTxn w = .rdPix (w.extractLsb' 32 6)) ∧
    (txnAddr w = 0x40 → decodeTxn w = .rdLedCount) ∧
    (txnAddr w = 0x41 → decodeTxn w = .rdCtrl) ∧
    (txnAddr w = 0x42 → decodeTxn w = .rdStatus) ∧
    (0x43 ≤ txnAddr w → decodeTxn w ∈ [Instr.rdRsvd43, .rdRsvd44 (w.extractLsb' 32 8), .rdRsvd48 (w.extractLsb' 32 8),
      .rdRsvd50 (w.extractLsb' 32 8), .rdRsvd60 (w.extractLsb' 32 8), .rdRsvd80 (w.extractLsb' 32 8)])) ∧
  (∀ w : Txn, w.getLsbD 41 = true → w.getLsbD 40 = true →
    (txnAddr w < 64 → decodeTxn w = .wrPix (w.extractLsb' 32 6) (w.extractLsb' 0 32)) ∧
    (txnAddr w = 0x40 → decodeTxn w = .wrLedCount (w.extractLsb' 0 32)) ∧
    (txnAddr w = 0x41 → decodeTxn w = .wrCtrl (w.extractLsb' 0 32)) ∧
    (txnAddr w = 0x42 → decodeTxn w = .wrStatus (w.extractLsb' 0 32)) ∧
    (0x43 ≤ txnAddr w → decodeTxn w ∈ [Instr.wrRsvd43 (w.extractLsb' 0 32),
      .wrRsvd44 (w.extractLsb' 32 8) (w.extractLsb' 0 32), .wrRsvd48 (w.extractLsb' 32 8) (w.extractLsb' 0 32),
      .wrRsvd50 (w.extractLsb' 32 8) (w.extractLsb' 0 32), .wrRsvd60 (w.extractLsb' 32 8) (w.extractLsb' 0 32),
      .wrRsvd80 (w.extractLsb' 32 8) (w.extractLsb' 0 32)])) ∧
  (∀ w : Txn, (decodeTxn w).rowIndex < 21) ∧
  (∀ (w : Txn) (k : Nat) (r : Row), txnRows[k]? = some r → (w &&& r.mask = r.pattern ↔ (decodeTxn w).rowIndex = k))

/-- R78, R200: whatever the state and the pins, a cycle completes: no word is illegal and nothing traps. -/
def Obligations.EveryCycleCompletes : Prop :=
  ∀ (s : State) (w : Txn) (rdy rst : Bool), s.nextInput = .cycle w rdy rst →
    (decodeTxn w).WellFormed ∧ ∃ t, step s = .next t

/-- R74 (the refusal is the model's, notes/assumptions/12.md): a byte that is neither symbol is refused by name. -/
def Obligations.OtherPatternsAreNoSymbol : Prop :=
  ∀ (s : State) (b : Byte), s.nextInput = .expand b → b ≠ 0b11100 → b ≠ 0b10000 →
    step s = .refused (.notALineSymbol b)

/-! ## The reads (R102, R104, R105, R107, R109) and the idle cycle (R111): read data, and nothing but the sequencer -/

/-- R102. -/
def Obligations.RdPixReadsThePixel : Prop :=
  Encoded false 0x00 0x3F (fun w => .rdPix (w.extractLsb' 32 6)) ∧
  ∀ (i : BitVec 6) (s : State),
    exec (.rdPix i) s = .next (quietCycle ((s.pix[i.toNat]'i.isLt).setWidth 32) s)

/-- R104. -/
def Obligations.RdLedCountReadsTheCount : Prop :=
  Encoded false 0x40 0x40 (fun _ => .rdLedCount) ∧
  ∀ s : State, exec .rdLedCount s = .next (quietCycle (s.ledCount.setWidth 32) s)

/-- R105. -/
def Obligations.RdCtrlReadsIrqEnable : Prop :=
  Encoded false 0x41 0x41 (fun _ => .rdCtrl) ∧
  ∀ s : State, exec .rdCtrl s = .next (quietCycle (if s.irqEn = true then 0x2 else 0x0) s)

/-- R107; and in the cycle that transfers the last byte, from a state of the invariant, the read gives `BUSY` = 1 and
`DONE` = 0, the values before the edge. -/
def Obligations.RdStatusReadsTheFlags : Prop :=
  Encoded false 0x42 0x42 (fun _ => .rdStatus) ∧
  (∀ s : State, exec .rdStatus s = .next (quietCycle
    ((if s.busy = true then 0x1 else 0x0) ||| (if s.done = true then 0x2 else 0x0)
      ||| (if s.errCount = true then 0x4 else 0x0) ||| (if s.errOvr = true then 0x8 else 0x0)) s)) ∧
  (∀ s : State, GoodState s → lastTransfer s = true → ∃ t, exec .rdStatus s = .next t ∧
    t.ports.busRdata.getLsbD 0 = true ∧ t.ports.busRdata.getLsbD 1 = false ∧ t.busy = false ∧ t.done = true)

/-- R109: all six rows. -/
def Obligations.RdReservedReadsZero : Prop :=
  Encoded false 0x43 0x43 (fun _ => .rdRsvd43) ∧
  Encoded false 0x44 0x47 (fun w => .rdRsvd44 (w.extractLsb' 32 8)) ∧
  Encoded false 0x48 0x4F (fun w => .rdRsvd48 (w.extractLsb' 32 8)) ∧
  Encoded false 0x50 0x5F (fun w => .rdRsvd50 (w.extractLsb' 32 8)) ∧
  Encoded false 0x60 0x7F (fun w => .rdRsvd60 (w.extractLsb' 32 8)) ∧
  Encoded false 0x80 0xFF (fun w => .rdRsvd80 (w.extractLsb' 32 8)) ∧
  ∀ (a : BitVec 8) (s : State),
    exec .rdRsvd43 s = .next (quietCycle 0 s) ∧
    exec (.rdRsvd44 a) s = .next (quietCycle 0 s) ∧
    exec (.rdRsvd48 a) s = .next (quietCycle 0 s) ∧
    exec (.rdRsvd50 a) s = .next (quietCycle 0 s) ∧
    exec (.rdRsvd60 a) s = .next (quietCycle 0 s) ∧
    exec (.rdRsvd80 a) s = .next (quietCycle 0 s)

/-- R111. -/
def Obligations.NopOnlyStepsTheSequencer : Prop :=
  (∀ w : Txn, w.getLsbD 41 = false → decodeTxn w = .nop) ∧
  ∀ s : State, exec .nop s = .next (quietCycle 0 s)

/-! ## The writes (R101, R103, R106, R108, R110) -/

/-- R101. -/
def Obligations.WrPixStoresOrIsDropped : Prop :=
  Encoded true 0x00 0x3F (fun w => .wrPix (w.extractLsb' 32 6) (w.extractLsb' 0 32)) ∧
  ∀ (i : BitVec 6) (v : Word) (s : State),
    exec (.wrPix i v) s = .next { quietCycle 0 s with
      pix := if s.busy = true then s.pix else s.pix.set i.toNat (v.setWidth 24) i.isLt
      errOvr := s.errOvr || s.busy }

/-- R103. -/
def Obligations.WrLedCountStoresOrIsDropped : Prop :=
  Encoded true 0x40 0x40 (fun w => .wrLedCount (w.extractLsb' 0 32)) ∧
  ∀ (v : Word) (s : State),
    exec (.wrLedCount v) s = .next { quietCycle 0 s with
      ledCount := if s.busy = true then s.ledCount else v.setWidth 8
      errOvr := s.errOvr || s.busy }

/-- R106: no START; START while busy; START accepted; START with an illegal count. -/
def Obligations.WrCtrlStartsOrReports : Prop :=
  Encoded true 0x41 0x41 (fun w => .wrCtrl (w.extractLsb' 0 32)) ∧
  ∀ (v : Word) (s : State),
    (v.getLsbD 0 = false →
      exec (.wrCtrl v) s = .next { quietCycle 0 s with irqEn := v.getLsbD 1 }) ∧
    (v.getLsbD 0 = true → s.busy = true →
      exec (.wrCtrl v) s = .next { quietCycle 0 s with irqEn := v.getLsbD 1, errOvr := true }) ∧
    (v.getLsbD 0 = true → s.busy = false → 1 ≤ s.ledCount.toNat ∧ s.ledCount.toNat ≤ 64 →
      exec (.wrCtrl v) s =
        .next { quietCycle 0 s with irqEn := v.getLsbD 1, busy := true, pos := 0, done := false }) ∧
    (v.getLsbD 0 = true → s.busy = false → ¬(1 ≤ s.ledCount.toNat ∧ s.ledCount.toNat ≤ 64) →
      exec (.wrCtrl v) s = .next { quietCycle 0 s with irqEn := v.getLsbD 1, errCount := true })

/-- R108: a clear of `DONE` in the cycle that sets it loses. -/
def Obligations.WrStatusClearsByOnes : Prop :=
  Encoded true 0x42 0x42 (fun w => .wrStatus (w.extractLsb' 0 32)) ∧
  ∀ (v : Word) (s : State),
    exec (.wrStatus v) s = .next { quietCycle 0 s with
      done := lastTransfer s || (s.done && !v.getLsbD 1)
      errCount := s.errCount && !v.getLsbD 2
      errOvr := s.errOvr && !v.getLsbD 3 }

/-- R110: all six rows. -/
def Obligations.WrReservedChangesNothing : Prop :=
  Encoded true 0x43 0x43 (fun w => .wrRsvd43 (w.extractLsb' 0 32)) ∧
  Encoded true 0x44 0x47 (fun w => .wrRsvd44 (w.extractLsb' 32 8) (w.extractLsb' 0 32)) ∧
  Encoded true 0x48 0x4F (fun w => .wrRsvd48 (w.extractLsb' 32 8) (w.extractLsb' 0 32)) ∧
  Encoded true 0x50 0x5F (fun w => .wrRsvd50 (w.extractLsb' 32 8) (w.extractLsb' 0 32)) ∧
  Encoded true 0x60 0x7F (fun w => .wrRsvd60 (w.extractLsb' 32 8) (w.extractLsb' 0 32)) ∧
  Encoded true 0x80 0xFF (fun w => .wrRsvd80 (w.extractLsb' 32 8) (w.extractLsb' 0 32)) ∧
  ∀ (a : BitVec 8) (v : Word) (s : State),
    exec (.wrRsvd43 v) s = .next (quietCycle 0 s) ∧
    exec (.wrRsvd44 a v) s = .next (quietCycle 0 s) ∧
    exec (.wrRsvd48 a v) s = .next (quietCycle 0 s) ∧
    exec (.wrRsvd50 a v) s = .next (quietCycle 0 s) ∧
    exec (.wrRsvd60 a v) s = .next (quietCycle 0 s) ∧
    exec (.wrRsvd80 a v) s = .next (quietCycle 0 s)

/-! ## The line symbols (R144): the model shows the result in `symOut` (notes/assumptions/5.md) -/

/-- R144. -/
def Obligations.SymbolOperationsGiveTheirPattern : Prop :=
  ∀ s : State, exec .sym1 s = .next { s with symOut := 0b11100 } ∧
    exec .sym0 s = .next { s with symOut := 0b10000 }

/-! ## The cycle as a whole -/

/-- R174: without reset the spec's registers follow its equations on the raw word, and the byte emitted, if one is, is the
offered one; with reset they are at their reset values, `PIX` unspecified. -/
def Obligations.StepRefinesTheCycleEquations : Prop :=
  ∀ (s : State) (w : Txn) (rdy rst : Bool), s.nextInput = .cycle w rdy rst → ∃ t, step s = .next t ∧
    (rst = false → archOf t = stepEquations (archOf s) w rdy ∧
      t.emitted = s.emitted ++ (if s.busy = true ∧ rdy = true then [t.ports.outData] else [])) ∧
    (rst = true → archOf t = ⟨t.pix, 0, false, false, 0, false, false, false⟩ ∧ t.emitted = s.emitted)

/-- R29: the ports of a cycle are those functions of the state held during it. -/
def Obligations.PortsAreFunctionsOfTheHeldState : Prop :=
  ∀ (s t : State) (w : Txn) (rdy rst : Bool), s.nextInput = .cycle w rdy rst → step s = .next t →
    t.ports = portsR29 t.ports.busRdata s

/-- R52, R100: `bus_rdata` is the register at `ADDR` in a read cycle and 0 in every other. That a cycle with `rst` = 1
reads too is the model's inference (notes/assumptions/9.md). -/
def Obligations.BusReadFollowsTheAddressMap : Prop :=
  ∀ (s t : State) (w : Txn) (rdy rst : Bool), s.nextInput = .cycle w rdy rst → step s = .next t →
    (¬(w.getLsbD 41 = true ∧ w.getLsbD 40 = false) → t.ports.busRdata = 0) ∧
    (w.getLsbD 41 = true ∧ w.getLsbD 40 = false →
      (∀ h : txnAddr w < 64, t.ports.busRdata = (s.pix[txnAddr w]'h).setWidth 32) ∧
      (txnAddr w = 0x40 → t.ports.busRdata = s.ledCount.setWidth 32) ∧
      (txnAddr w = 0x41 → t.ports.busRdata = if s.irqEn = true then 0x2 else 0x0) ∧
      (txnAddr w = 0x42 → t.ports.busRdata =
        (if s.busy = true then 0x1 else 0x0) ||| (if s.done = true then 0x2 else 0x0)
          ||| (if s.errCount = true then 0x4 else 0x0) ||| (if s.errOvr = true then 0x8 else 0x0)) ∧
      (0x43 ≤ txnAddr w → t.ports.busRdata = 0))

/-- R57: a read leaves the state the idle cycle leaves, but for the data on the bus. -/
def Obligations.ReadsHaveNoSideEffect : Prop :=
  ∀ (i : Instr) (s t u : State), 1 ≤ i.rowIndex → i.rowIndex ≤ 10 → exec i s = .next t → exec .nop s = .next u →
    t = { u with ports := { u.ports with busRdata := t.ports.busRdata } }

/-! ## Reset -/

/-- R230: the registers after a reset edge; the transaction and `out_ready` of the cycle are ignored. -/
def Obligations.ResetEdgeReachesResetState : Prop :=
  ∀ (s : State) (w : Txn) (rdy : Bool), s.nextInput = .cycle w rdy true → ∃ t, step s = .next t ∧
    t.ledCount = 0x00 ∧ t.irqEn = false ∧ t.busy = false ∧ t.done = false ∧ t.errCount = false ∧ t.errOvr = false ∧
    t.pos = 0 ∧ t.gamma = s.gamma ∧ t.emitted = s.emitted

/-- R230 leaves `PIX` unspecified; that each entry is the model's free draw, and no draw is made twice, is the model's
choice (notes/assumptions/3.md). -/
def Obligations.ResetEdgeDrawsEveryPixel : Prop :=
  ∀ (s : State) (w : Txn) (rdy : Bool) (xs : List Input), s.inputs = .cycle w rdy true :: xs → ∃ t, step s = .next t ∧
    (∀ i : BitVec 6, t.pix[i.toNat]'i.isLt = Config.freeCell s.draws i) ∧ t.draws = s.draws + 1

/-- R232: after reset the block is quiescent, its outputs idle and its interrupt masked; the registers of R230. -/
def Obligations.ResetStateIsQuiescent : Prop :=
  State.reset.busy = false ∧ State.reset.ledCount = 0 ∧ State.reset.irqEn = false ∧ State.reset.done = false ∧
  State.reset.errCount = false ∧ State.reset.errOvr = false ∧ State.reset.pos = 0 ∧
  portsR29 0 State.reset = { busRdata := 0, outValid := false, outData := 0x00, outLast := false, irq := false }

/-! ## Invariants and whole-machine rules -/

/-- The invariant holds after reset. -/
def Obligations.ResetStateMeetsTheInvariant : Prop := GoodState State.reset

/-- R26, R22, R106, R173: every step, whatever its input, keeps the count legal, `POS` within the frame and `DONE` at 0 while
busy, and `POS` at 0 while not. -/
def Obligations.EveryStepKeepsTheInvariant : Prop :=
  ∀ s t : State, GoodState s → step s = .next t → GoodState t

/-- R25: `BUSY` rises exactly at an accepted START and falls exactly at the last transfer or at reset. -/
def Obligations.BusyChangesOnlyAsStated : Prop :=
  (∀ (s t : State) (w : Txn) (rdy rst : Bool), s.nextInput = .cycle w rdy rst → step s = .next t →
    (s.busy = false → (t.busy = true ↔ rst = false ∧ isStart w = true ∧ legalCount s.ledCount = true)) ∧
    (s.busy = true → (t.busy = false ↔ rst = true ∨ (rdy = true ∧ s.pos.toNat = 15 * s.ledCount.toNat + 1)))) ∧
  (∀ (s t : State) (b : Byte), s.nextInput = .expand b → step s = .next t → t.busy = s.busy)

/-- R21, R22, R23: without reset a register of the host changes only by its own write, a row register not while busy. -/
def Obligations.HostRegistersChangeOnlyByTheirWrite : Prop :=
  ∀ (s t : State) (w : Txn) (rdy : Bool), s.nextInput = .cycle w rdy false → step s = .next t →
    (∀ i : BitVec 6, t.pix[i.toNat]'i.isLt ≠ s.pix[i.toNat]'i.isLt →
      s.busy = false ∧ ∃ v, decodeTxn w = .wrPix i v ∧ t.pix[i.toNat]'i.isLt = v.setWidth 24) ∧
    (t.ledCount ≠ s.ledCount → s.busy = false ∧ ∃ v, decodeTxn w = .wrLedCount v ∧ t.ledCount = v.setWidth 8) ∧
    (t.irqEn ≠ s.irqEn → ∃ v, decodeTxn w = .wrCtrl v ∧ t.irqEn = v.getLsbD 1)

/-- R27: nothing writes `GAMMA`, reset included, and no host transaction reads it. -/
def Obligations.GammaIsConstantAndHidden : Prop :=
  (∀ s t : State, step s = .next t → t.gamma = s.gamma) ∧
  (∀ (s t u : State) (g : Gamma) (w : Txn) (rdy rst : Bool), s.nextInput = .cycle w rdy rst →
    step s = .next t → step { s with gamma := g } = .next u → u.ports.busRdata = t.ports.busRdata)

/-- R201: when `ERR_COUNT` is raised, and all that such a START does. -/
def Obligations.CountErrorIsRaisedExactlyByIllegalStart : Prop :=
  ∀ (s t : State) (w : Txn) (rdy : Bool), s.nextInput = .cycle w rdy false → step s = .next t →
    (s.errCount = false →
      (t.errCount = true ↔ isStart w = true ∧ s.busy = false ∧ (s.ledCount.toNat = 0 ∨ 64 < s.ledCount.toNat))) ∧
    (isStart w = true → s.busy = false → (s.ledCount.toNat = 0 ∨ 64 < s.ledCount.toNat) →
      t.errCount = true ∧ t.busy = s.busy ∧ t.done = s.done ∧ t.emitted = s.emitted ∧ t.irqEn = w.getLsbD 1 ∧
      t.ledCount = s.ledCount ∧ t.pix = s.pix ∧ t.pos = s.pos ∧ t.errOvr = s.errOvr)

/-- R202: when `ERR_OVR` is raised, and that the write is dropped and the encode goes on as in an idle cycle. -/
def Obligations.OverlapErrorIsRaisedExactlyByBusyWrites : Prop :=
  ∀ (s t : State) (w : Txn) (rdy : Bool), s.nextInput = .cycle w rdy false → step s = .next t →
    (s.errOvr = false →
      (t.errOvr = true ↔ s.busy = true ∧ (writesPix w = true ∨ writesTo w 0x40 = true ∨ isStart w = true))) ∧
    (s.busy = true → (writesPix w = true ∨ writesTo w 0x40 = true ∨ isStart w = true) →
      t.errOvr = true ∧ t.pix = s.pix ∧ t.ledCount = s.ledCount ∧
      t.busy = (quietCycle 0 { s with outReady := rdy }).busy ∧ t.pos = (quietCycle 0 { s with outReady := rdy }).pos ∧
      t.done = (quietCycle 0 { s with outReady := rdy }).done ∧
      t.emitted = (quietCycle 0 { s with outReady := rdy }).emitted)

/-- R203, R207: without reset a flag that is set stays set but for its write-one-to-clear, and `DONE` for an accepted
START. -/
def Obligations.FlagsAreSticky : Prop :=
  ∀ (s t : State) (w : Txn) (rdy : Bool), s.nextInput = .cycle w rdy false → step s = .next t →
    (s.done = true → t.done = false → (writesTo w 0x42 = true ∧ w.getLsbD 1 = true) ∨
      (isStart w = true ∧ s.busy = false ∧ legalCount s.ledCount = true)) ∧
    (s.errCount = true → t.errCount = false → writesTo w 0x42 = true ∧ w.getLsbD 2 = true) ∧
    (s.errOvr = true → t.errOvr = false → writesTo w 0x42 = true ∧ w.getLsbD 3 = true)

/-- R204: one error per cycle at most; a START while busy raises the overlap error only; a completion and an error can
fall on one edge; a set beats a clear. -/
def Obligations.SimultaneousEventsCombine : Prop :=
  ∀ (s t : State) (w : Txn) (rdy : Bool), s.nextInput = .cycle w rdy false → step s = .next t →
    (s.errCount = false → s.errOvr = false → ¬(t.errCount = true ∧ t.errOvr = true)) ∧
    (s.busy = true → isStart w = true → t.errOvr = true ∧ t.errCount = s.errCount) ∧
    (s.busy = true → rdy = true → s.pos.toNat = 15 * s.ledCount.toNat + 1 → t.done = true) ∧
    (s.busy = true → rdy = true → s.pos.toNat = 15 * s.ledCount.toNat + 1 → writesPix w = true →
      t.done = true ∧ t.errOvr = true)

/-- R205, R206: the interrupt request falls only by clearing flags, by clearing `IRQ_EN`, or by an accepted START. -/
def Obligations.InterruptFallsOnlyAsStated : Prop :=
  ∀ (s t : State) (w : Txn) (rdy : Bool), s.nextInput = .cycle w rdy false → step s = .next t →
    (portsR29 0 s).irq = true → (portsR29 0 t).irq = false →
    (writesTo w 0x41 = true ∧ w.getLsbD 1 = false) ∨
    (writesTo w 0x42 = true ∧ (w.getLsbD 1 = true ∨ w.getLsbD 2 = true ∨ w.getLsbD 3 = true)) ∨
    (isStart w = true ∧ s.busy = false ∧ legalCount s.ledCount = true)

/-- R171: the offered byte and `out_last` stay while the sink does not take the byte, whatever the host does. -/
def Obligations.OfferedByteIsHeldDuringAStall : Prop :=
  ∀ (s t : State) (w : Txn), s.nextInput = .cycle w false false → s.busy = true → step s = .next t →
    t.busy = true ∧ (portsR29 0 t).outData = (portsR29 0 s).outData ∧ (portsR29 0 t).outLast = (portsR29 0 s).outLast

/-- R177: from a quiescent state nothing changes except by a host write or reset. -/
def Obligations.QuiescentBlockRests : Prop :=
  ∀ (s t : State) (w : Txn) (rdy : Bool), s.nextInput = .cycle w rdy false → s.busy = false →
    (w.getLsbD 41 && w.getLsbD 40) = false → step s = .next t →
    archOf t = archOf s ∧ t.emitted = s.emitted

/-! ## The datapath -/

/-- R143, R54: green, red, blue, from the most significant field of the cell to the least. -/
def Obligations.ChannelsComeGreenRedBlue : Prop :=
  (∀ g r b : Byte, chan (g ++ r ++ b) 0 = g ∧ chan (g ++ r ++ b) 1 = r ∧ chan (g ++ r ++ b) 2 = b) ∧
  chan 0x140A1E 1 = 0x0A

/-- R145: the eight symbols of a channel code, the most significant bit's first; the code depends on every bit. -/
def Obligations.ChannelCodeIsTheSymbolsOfItsBits : Prop :=
  (∀ (c : Byte) (k : Nat), k < 8 →
    symbolAt (expand c) k = if c.getLsbD (7 - k) = true then 0b11100 else 0b10000) ∧
  (∀ c d : Byte, expand c = expand d → c = d) ∧
  expand 0x00 = 0x8421084210 ∧ expand 0xFF = 0xE739CE739C ∧ expand 0x01 = 0x842108421C

/-- R146: the packing, first-sent bit in bit 7 of the first byte, and the bytes written out. -/
def Obligations.ChannelBytesArePackedMsbFirst : Prop :=
  (∀ c : Byte, (chBytes c)[0] ++ (chBytes c)[1] ++ (chBytes c)[2] ++ (chBytes c)[3] ++ (chBytes c)[4] = expand c) ∧
  (∀ c : Byte,
    (chBytes c)[0] = 0x84 ||| (if c.getLsbD 7 = true then 0x60 else 0) ||| (if c.getLsbD 6 = true then 0x03 else 0) ∧
    (chBytes c)[1] = 0x21 ||| (if c.getLsbD 5 = true then 0x18 else 0) ∧
    (chBytes c)[2] = 0x08 ||| (if c.getLsbD 4 = true then 0xC0 else 0) ||| (if c.getLsbD 3 = true then 0x06 else 0) ∧
    (chBytes c)[3] = 0x42 ||| (if c.getLsbD 2 = true then 0x30 else 0) ||| (if c.getLsbD 1 = true then 0x01 else 0) ∧
    (chBytes c)[4] = 0x10 ||| (if c.getLsbD 1 = true then 0x80 else 0) ||| (if c.getLsbD 0 = true then 0x0C else 0)) ∧
  (chBytes 0x0F).toList = [0x84, 0x21, 0x0E, 0x73, 0x9C]

/-- R148: the byte at an index of the row frame: the two zero bytes, and byte `j` of the code of channel `k` of LED
`led`. -/
def Obligations.RowByteSelectsLedChannelAndByte : Prop :=
  ∀ (g : Gamma) (P : PixStore) (n : Nat), 1 ≤ n → n ≤ 64 →
    rowByte g P n 0 = 0x00 ∧ rowByte g P n (15 * n + 1) = 0x00 ∧
    (∀ (led : Nat) (k : Fin 3) (j : Nat) (hl : led < 64) (hj : j < 5), led < n →
      rowByte g P n (15 * led + 5 * k.val + j + 1) = (chBytes (correct g (chan P[led] k)))[j])

/-- R147, R149: the LED code, the frame, its length, its bytes by index, and that only the first and the last are zero. -/
def Obligations.RowFrameIsTheRowBytes : Prop :=
  (∀ (g : Gamma) (x : Color), encodeLed g x = (chBytes (correct g (chan x 0))).toList
    ++ (chBytes (correct g (chan x 1))).toList ++ (chBytes (correct g (chan x 2))).toList) ∧
  encodeLed gammaDefault 0x140A1E
    = [0x84, 0x21, 0x08, 0x42, 0x1C, 0x84, 0x21, 0x08, 0x42, 0x10, 0x84, 0x21, 0x08, 0x42, 0x1C] ∧
  (∀ (g : Gamma) (P : PixStore) (n : Nat), 1 ≤ n → n ≤ 64 →
    encodeRow g P n = [0x00] ++ ((P.toList.take n).map (encodeLed g)).flatten ++ [0x00]) ∧
  ∀ (g : Gamma) (P : PixStore) (n : Nat), 1 ≤ n → n ≤ 64 →
    (encodeRow g P n).length = 15 * n + 2 ∧
    (∀ p : Nat, p ≤ 15 * n + 1 → (encodeRow g P n)[p]? = some (rowByte g P n p)) ∧
    (∀ p : Nat, 1 ≤ p → p ≤ 15 * n → rowByte g P n p ≠ 0x00)

/-- R150: the frame depends on the table and the first `n` cells only. -/
def Obligations.FrameDependsOnTheRowOnly : Prop :=
  ∀ (g : Gamma) (P Q : PixStore) (n : Nat), n ≤ 64 →
    (∀ (i : Nat) (h : i < 64), i < n → P[i] = Q[i]) → encodeRow g P n = encodeRow g Q n

/-- R141: the default table is the formula evaluated exactly. `c = round(2^(v/32)) - 1` is written without roots:
`(2c+1)^32 <= 2^(v+32) < (2c+3)^32`, no tie; the spec's checksums; and R142's bounds. That reset carries this table is the model's choice of the parameter
(notes/assumptions/4.md). -/
def Obligations.DefaultTableIsTheFormula : Prop :=
  (∀ v : Byte, (2 * (correct gammaDefault v).toNat + 1) ^ 32 < 2 ^ (v.toNat + 32) + 1 ∧
    2 ^ (v.toNat + 32) < (2 * (correct gammaDefault v).toNat + 3) ^ 32) ∧
  (gammaDefault.toList.map fun c => c.toNat).sum = 11388 ∧
  gammaDefault.toList.dedup.length = 124 ∧
  gammaDefault.toList.Pairwise (fun c d => c.toNat ≤ d.toNat) ∧
  GammaBounded gammaDefault

/-! ## Whole encodes -/

/-- R175, R176, R60: after an accepted START, whatever the host does and whenever the sink is ready, the bytes emitted are
the first bytes of `EncodeRow` of the row held at the accepting edge, one per ready cycle; and until the last one the block
is busy at that position, not done. -/
def Obligations.EmittedBytesAreEncodeRow : Prop :=
  ∀ (s : State) (w : Txn) (rdy : Bool) (cs : List (Txn × Bool)) (rest : List Input),
    s.busy = false → isStart w = true → 1 ≤ s.ledCount.toNat → s.ledCount.toNat ≤ 64 →
    s.inputs = .cycle w rdy false :: script cs ++ rest → readyCount cs ≤ 15 * s.ledCount.toNat + 2 →
    ∃ t, core.run (cs.length + 1) s = .next t ∧
      t.emitted = s.emitted ++ (encodeRow s.gamma s.pix s.ledCount.toNat).take (readyCount cs) ∧
      (readyCount cs < 15 * s.ledCount.toNat + 2 →
        t.busy = true ∧ t.done = false ∧ t.pos.toNat = readyCount cs ∧ t.pix = s.pix ∧ t.ledCount = s.ledCount)

/-- R175, R176, R242: the encode ends in the cycle of the `(15*n + 2)`-th acceptance and not before: `BUSY` falls and `DONE`
rises there, whatever the host does in that cycle. -/
def Obligations.EncodeEndsAtTheLastAcceptance : Prop :=
  ∀ (s : State) (w : Txn) (rdy : Bool) (cs : List (Txn × Bool)) (v : Txn) (rest : List Input),
    s.busy = false → isStart w = true → 1 ≤ s.ledCount.toNat → s.ledCount.toNat ≤ 64 →
    s.inputs = .cycle w rdy false :: script (cs ++ [(v, true)]) ++ rest →
    readyCount cs = 15 * s.ledCount.toNat + 1 →
    ∃ t u, core.run (cs.length + 1) s = .next t ∧ t.busy = true ∧ t.done = false ∧ (portsR29 0 t).outLast = true ∧
      core.run (cs.length + 2) s = .next u ∧ u.busy = false ∧ u.done = true ∧ u.pos = 0 ∧
      u.emitted = s.emitted ++ encodeRow s.gamma s.pix s.ledCount.toNat

/-- R150, R176: two blocks that hold the same row emit the same bytes after as many acceptances, whatever else differs: the
other cells, the flags, the interrupt enable, the host's transactions and the pattern of stalls. -/
def Obligations.StallsAndHostTrafficDoNotChangeTheBytes : Prop :=
  ∀ (s1 s2 t1 t2 : State) (cs1 cs2 : List (Txn × Bool)) (r1 r2 : List Input),
    s1.busy = true → s2.busy = true → s1.pos = 0 → s2.pos = 0 → s1.emitted = s2.emitted → s1.gamma = s2.gamma →
    s1.ledCount = s2.ledCount → 1 ≤ s1.ledCount.toNat → s1.ledCount.toNat ≤ 64 →
    (∀ (i : Nat) (h : i < 64), i < s1.ledCount.toNat → s1.pix[i] = s2.pix[i]) →
    s1.inputs = script cs1 ++ r1 → s2.inputs = script cs2 ++ r2 → readyCount cs1 = readyCount cs2 →
    readyCount cs1 ≤ 15 * s1.ledCount.toNat + 2 →
    core.run cs1.length s1 = .next t1 → core.run cs2.length s2 = .next t2 → t1.emitted = t2.emitted

/-! ## Host scripts and durations -/

/-- R82: the word of a statement, field by field, with the rule's three examples. -/
def Obligations.StatementsAssembleToTheirWord : Prop :=
  Stmt.nop.assemble = 0 ∧
  (∀ r : Reg, (Stmt.rd r).assemble = 1#1 ++ 0#1 ++ r.addr ++ 0#32) ∧
  (∀ (r : Reg) (v : Word), (Stmt.wr r v).assemble = 1#1 ++ 1#1 ++ r.addr ++ v) ∧
  (∀ i : BitVec 6, (Reg.pix i).addr.toNat = i.toNat) ∧ Reg.ledCount.addr = 0x40 ∧ Reg.ctrl.addr = 0x41 ∧
  Reg.status.addr = 0x42 ∧ (∀ a : BitVec 8, (Reg.raw a).addr = a) ∧
  (Stmt.wr (.pix 5) 0x0A141E).assemble = 0x305000A141E ∧ (Stmt.rd .status).assemble = 0x24200000000

/-- R83: the expansions, and a polling loop issues one `rd STATUS` a cycle and ends in the cycle whose read data meets its
condition. That `nop 0` and an `ldrow` of no cells are taken is the model's choice (notes/assumptions/19.md,
notes/assumptions/20.md), as is the driver that runs a loop (notes/assumptions/18.md). -/
def Obligations.PseudoInstructionsExpand : Prop :=
  Pseudo.start.expand = some [.one (.wr .ctrl 0x1)] ∧ Pseudo.startIe.expand = some [.one (.wr .ctrl 0x3)] ∧
  Pseudo.irqOn.expand = some [.one (.wr .ctrl 0x2)] ∧ Pseudo.irqOff.expand = some [.one (.wr .ctrl 0x0)] ∧
  Pseudo.clrst.expand = some [.one (.wr .status 0xE)] ∧
  (∀ k : Nat, (Pseudo.nops k).expand = some (List.replicate k (.one .nop))) ∧
  (∀ cells : List Word, cells.length ≤ 64 → ∃ items, (Pseudo.ldrow cells).expand = some items ∧
    items.length = cells.length + 1 ∧
    (∀ (i : Nat) (h : i < cells.length), items[i]? = some (.one (.wr (.pix (BitVec.ofNat 6 i)) cells[i]))) ∧
    items[cells.length]? = some (.one (.wr .ledCount (BitVec.ofNat 32 cells.length)))) ∧
  (∀ c : Poll, (Pseudo.waitFor c).expand = some [.loop c]) ∧
  (∀ (c : Poll) (rdy : Bool) (rdys : List Bool) (items : List Item) (s t : State),
    hostCycle (Stmt.rd .status).assemble rdy s = .next t →
    runScript (rdy :: rdys) (.loop c :: items) s =
      runScript rdys (if t.ports.busRdata.getLsbD (match c with | .idle => 0 | .done => 1)
          = (match c with | .idle => false | .done => true) then items else .loop c :: items) t)

/-- R243: the bit periods of a row frame and of a logical bit, and the duration over the OPEN `BIT_RATE`. That `BIT_RATE` is a
rational number is the model's choice (notes/assumptions/15.md); the clause on seconds says something of a line only where
the rate is positive, since Lean's division by 0 gives 0. -/
def Obligations.LineDurationsFollowTheFrame : Prop :=
  (∀ (g : Gamma) (P : PixStore) (n : Nat), 1 ≤ n → n ≤ 64 → frameBitPeriods n = (encodeRow g P n).length * 8 ∧
    frameBitPeriods n = (15 * n + 2) * 8 ∧ frameSeconds n = ((15 * n + 2) * 8 : ℚ) / Config.bitRate) ∧
  symbolBitPeriods = 5 ∧ symbolHighPeriods true = 3 ∧ symbolHighPeriods false = 1 ∧
  (∀ (b : Bool) (k : Nat), k < symbolBitPeriods →
    ((sym b).getLsbD (symbolBitPeriods - 1 - k) = true ↔ k < symbolHighPeriods b))
end

