-- ==== Sys2Proof/Laws/Datapath.lean ====
section
/-! SUPPORT. The lengths and the bytes by index of the datapath's lists (spec/41_datapath.md R147 to R149). -/

namespace Sys2Proof.Laws

open Sys2Proof.Machine

/-- An LED code has 15 bytes (R147). -/
theorem encodeLed_length (g : Gamma) (x : Color) : (encodeLed g x).length = 15 := by
  simp [encodeLed]

/-- Byte `r` of an LED code (R148). -/
theorem encodeLed_getElem? (g : Gamma) (x : Color) (r : Fin 15) :
    (encodeLed g x)[r.val]? = some (ledByte g x r) := by
  obtain ⟨r, hr⟩ := r
  simp only [encodeLed, ledByte]
  have hk : r / 5 = 0 ∨ r / 5 = 1 ∨ r / 5 = 2 := by omega
  rcases hk with h | h | h
  · have h5 : r % 5 = r := by omega
    have hr5 : r < 5 := by omega
    simp only [h, h5]
    rw [List.getElem?_append_left (by simp; omega), List.getElem?_append_left (by simp; omega)]
    simp [hr5]
  · have h5 : r % 5 = r - 5 := by omega
    simp only [h, h5]
    rw [List.getElem?_append_left (by simp; omega), List.getElem?_append_right (by simp; omega)]
    simp
  · have h5 : r % 5 = r - 10 := by omega
    simp only [h, h5]
    rw [List.getElem?_append_right (by simp; omega)]
    simp

/-- The LED codes of a row, one after another: 15 bytes each. -/
theorem ledCodes_length (g : Gamma) (row : List Color) : ((row.map (encodeLed g)).flatten).length = 15 * row.length := by
  induction row with
  | nil => rfl
  | cons x xs ih =>
    simp only [List.map_cons, List.flatten_cons, List.length_append, ih, encodeLed_length, List.length_cons]
    omega

/-- Their byte `q` is byte `q mod 15` of the code of LED `q div 15`. -/
theorem ledCodes_getElem? (g : Gamma) (row : List Color) (q : Nat) (h : q < 15 * row.length) :
    ((row.map (encodeLed g)).flatten)[q]? = (row[q / 15]?).map fun x => ledByte g x ⟨q % 15, by omega⟩ := by
  induction row generalizing q with
  | nil => simp at h
  | cons x xs ih =>
    simp only [List.map_cons, List.flatten_cons]
    by_cases hq : q < 15
    · have h0 : q / 15 = 0 := by omega
      have h1 : q % 15 = q := by omega
      rw [List.getElem?_append_left (by rw [encodeLed_length]; exact hq), h0]
      simp only [h1]
      simpa using encodeLed_getElem? g x ⟨q, hq⟩
    · have h0 : q / 15 = (q - 15) / 15 + 1 := by omega
      have h1 : (q - 15) % 15 = q % 15 := by omega
      rw [List.getElem?_append_right (by rw [encodeLed_length]; omega), encodeLed_length,
        ih (q - 15) (by simp at h; omega), h0]
      simp only [h1, List.getElem?_cons_succ]

/-- No byte of a channel code is zero: each has a 1 among its constant bits (R146, R149). -/
theorem chBytes_ne_zero : ∀ (c : Byte) (j : Fin 5), (chBytes c)[j.val] ≠ 0 := by decide +kernel

/-- The row of `n` LEDs has `n` cells. -/
theorem row_take_length (P : PixStore) (n : Nat) (h : n ≤ 64) : (P.toList.take n).length = n := by
  simp [Nat.min_eq_left h]

end Sys2Proof.Laws
end

