-- ==== Sys2Proof/Laws/Encoding.lean ====
section
/-! SUPPORT. What the fields of an assembled word are, what a word is once its fields are known, and where each address
decodes: the facts a proof about decoding or encoding cites. -/

namespace Sys2Proof.Laws

open Sys2Proof.Machine Sys2Proof.Safety

/-! ## Fields of an assembled word (R71) -/

theorem en_mk (e w : Bool) (a : BitVec 8) (v : Word) : (Txn.mk e w a v).en = e := by
  simp only [Txn.en, Txn.mk, BitVec.getLsbD_append]
  simp

theorem we_mk (e w : Bool) (a : BitVec 8) (v : Word) : (Txn.mk e w a v).we = w := by
  simp only [Txn.we, Txn.mk, BitVec.getLsbD_append]
  simp

theorem addr_mk (e w : Bool) (a : BitVec 8) (v : Word) : (Txn.mk e w a v).addr = a := by
  apply BitVec.eq_of_getLsbD_eq
  intro i hi
  have h : ¬ 32 + i < 32 := by omega
  simp only [Txn.addr, Txn.mk, BitVec.getLsbD_extractLsb', BitVec.getLsbD_append]
  simp [h, hi]

theorem wdata_mk (e w : Bool) (a : BitVec 8) (v : Word) : (Txn.mk e w a v).wdata = v := by
  apply BitVec.eq_of_getLsbD_eq
  intro i hi
  simp only [Txn.wdata, Txn.mk, BitVec.getLsbD_extractLsb', BitVec.getLsbD_append]
  simp [hi]

/-- A word is its four fields. -/
theorem mk_fields (w : Txn) : Txn.mk w.en w.we w.addr w.wdata = w := by
  apply BitVec.eq_of_getLsbD_eq
  intro i hi
  simp only [Txn.wdata, Txn.addr, Txn.en, Txn.we, Txn.mk, BitVec.getLsbD_extractLsb', BitVec.getLsbD_append]
  by_cases h1 : i < 32
  · simp [h1]
  · by_cases h2 : i < 40
    · have h3 : i - 32 < 8 := by omega
      have h4 : 32 + (i - 32) = i := by omega
      simp [h1, h3, h4]
    · have h3 : ¬ i - 32 < 8 := by omega
      have h4 : i = 40 ∨ i = 41 := by omega
      rcases h4 with rfl | rfl <;> simp

/-- A mask that has no bit of `WDATA` looks only at the ten bits `{EN, WE, ADDR}`. -/
theorem mk_and_mask (e w : Bool) (a : BitVec 8) (v : Word) (m p : BitVec 10) :
    (Txn.mk e w a v &&& (m ++ 0#32) = p ++ 0#32) ↔ (BitVec.ofBool e ++ BitVec.ofBool w ++ a) &&& m = p := by
  constructor
  · intro h
    apply BitVec.eq_of_getLsbD_eq
    intro i hi
    have hb := congrArg (fun x : BitVec 42 => x.getLsbD (32 + i)) h
    have h1 : ¬ 32 + i < 32 := by omega
    simp only [Txn.mk, BitVec.getLsbD_and, BitVec.getLsbD_append, h1, if_false, Nat.add_sub_cancel_left] at hb
    simpa only [BitVec.getLsbD_and, BitVec.getLsbD_append] using hb
  · intro h
    subst h
    apply BitVec.eq_of_getLsbD_eq
    intro i hi
    by_cases h1 : i < 32
    · simp only [Txn.mk, BitVec.getLsbD_and, BitVec.getLsbD_append, h1, if_true]
      simp
    · simp only [Txn.mk, BitVec.getLsbD_and, BitVec.getLsbD_append, h1, if_false]

/-! ## Fields as numbers -/

theorem txnAddr_eq (w : Txn) : txnAddr w = w.addr.toNat := rfl

/-- Bit `k` of `WDATA` is bit `k` of the word. -/
theorem wdata_bit (w : Txn) (k : Nat) (h : k < 32) : w.wdata.getLsbD k = w.getLsbD k := by
  simp [Txn.wdata, h]

/-! ## Where each address decodes -/

/-- An address at or above `0x44` is no register: the first five lines of the decoder pass it on. -/
theorem reserved_passes (a : BitVec 8) (h : 0x44 ≤ a.toNat) :
    ¬ a.extractLsb' 6 2 = 0 ∧ ¬ a = 0x40 ∧ ¬ a = 0x41 ∧ ¬ a = 0x42 ∧ ¬ a = 0x43 := by
  revert a; decide

/-- The top two bits of an address are 0 exactly below `0x40`. -/
theorem top_bits_zero_iff (a : BitVec 8) : a.extractLsb' 6 2 = 0 ↔ a.toNat < 0x40 := by
  revert a; decide

/-- A pixel index as an address decodes as that pixel. -/
theorem pixel_address (i : BitVec 6) :
    (i.setWidth 8).extractLsb' 6 2 = 0 ∧ (i.setWidth 8).extractLsb' 0 6 = i := by
  revert i; decide

/-- The address of a pixel is made of its index. -/
theorem pixel_address_back (a : BitVec 8) (h : a.extractLsb' 6 2 = 0) : (a.extractLsb' 0 6).setWidth 8 = a := by
  revert a; decide

theorem decodeTxn_idle (w : Txn) (h : w.en = false) : decodeTxn w = .nop := by
  simp [decodeTxn, h]

theorem decodeTxn_read (w : Txn) (h : w.en = true) (h' : w.we = false) : decodeTxn w = decodeRead w.addr := by
  simp [decodeTxn, h, h']

theorem decodeTxn_write (w : Txn) (h : w.en = true) (h' : w.we = true) :
    decodeTxn w = decodeWrite w.addr w.wdata := by
  simp [decodeTxn, h, h']

/-- What a decoded read is, and for which addresses. -/
theorem decodeRead_cases (a : BitVec 8) :
    (a.toNat < 0x40 ∧ decodeRead a = .rdPix (a.extractLsb' 0 6)) ∨
    (a = 0x40 ∧ decodeRead a = .rdLedCount) ∨ (a = 0x41 ∧ decodeRead a = .rdCtrl) ∨
    (a = 0x42 ∧ decodeRead a = .rdStatus) ∨ (a = 0x43 ∧ decodeRead a = .rdRsvd43) ∨
    (addrIn 0x44 0x47 a = true ∧ decodeRead a = .rdRsvd44 a) ∨
    (addrIn 0x48 0x4F a = true ∧ decodeRead a = .rdRsvd48 a) ∨
    (addrIn 0x50 0x5F a = true ∧ decodeRead a = .rdRsvd50 a) ∨
    (addrIn 0x60 0x7F a = true ∧ decodeRead a = .rdRsvd60 a) ∨
    (addrIn 0x80 0xFF a = true ∧ decodeRead a = .rdRsvd80 a) := by
  revert a; decide

/-- The write at the address an instruction reads. -/
def asWrite (v : Word) : Instr → Instr
  | .rdPix i => .wrPix i v
  | .rdLedCount => .wrLedCount v
  | .rdCtrl => .wrCtrl v
  | .rdStatus => .wrStatus v
  | .rdRsvd43 => .wrRsvd43 v
  | .rdRsvd44 a => .wrRsvd44 a v
  | .rdRsvd48 a => .wrRsvd48 a v
  | .rdRsvd50 a => .wrRsvd50 a v
  | .rdRsvd60 a => .wrRsvd60 a v
  | .rdRsvd80 a => .wrRsvd80 a v
  | i => i

/-- Reads and writes share the address map (R52). -/
theorem decodeWrite_eq (a : BitVec 8) (v : Word) : decodeWrite a v = asWrite v (decodeRead a) := by
  unfold decodeWrite decodeRead
  split_ifs <;> rfl

/-- What a decoded write is, and for which addresses. -/
theorem decodeWrite_cases (a : BitVec 8) (v : Word) :
    (a.toNat < 0x40 ∧ decodeWrite a v = .wrPix (a.extractLsb' 0 6) v) ∨
    (a = 0x40 ∧ decodeWrite a v = .wrLedCount v) ∨ (a = 0x41 ∧ decodeWrite a v = .wrCtrl v) ∨
    (a = 0x42 ∧ decodeWrite a v = .wrStatus v) ∨ (a = 0x43 ∧ decodeWrite a v = .wrRsvd43 v) ∨
    (addrIn 0x44 0x47 a = true ∧ decodeWrite a v = .wrRsvd44 a v) ∨
    (addrIn 0x48 0x4F a = true ∧ decodeWrite a v = .wrRsvd48 a v) ∨
    (addrIn 0x50 0x5F a = true ∧ decodeWrite a v = .wrRsvd50 a v) ∨
    (addrIn 0x60 0x7F a = true ∧ decodeWrite a v = .wrRsvd60 a v) ∨
    (addrIn 0x80 0xFF a = true ∧ decodeWrite a v = .wrRsvd80 a v) := by
  rw [decodeWrite_eq]
  rcases decodeRead_cases a with ⟨h, e⟩ | ⟨h, e⟩ | ⟨h, e⟩ | ⟨h, e⟩ | ⟨h, e⟩ | ⟨h, e⟩ | ⟨h, e⟩ | ⟨h, e⟩ | ⟨h, e⟩ | ⟨h, e⟩ <;>
    rw [e] <;> simp only [asWrite, h, and_self, true_or, or_true]

end Sys2Proof.Laws
end

