-- ==== Sys2Proof/Laws/PerInstr.lean ====
section
/-! SUPPORT. Facts about every instruction as syntax, one lemma per constructor. `RowMatch`: the word of a well-formed
instruction is accepted by the instruction's own row of spec/opcode_table.json. -/

namespace Sys2Proof.Laws.RowMatch

open Sys2Proof Sys2Proof.Laws

/-- A row whose mask and pattern have no bit of `WDATA` accepts a word by its ten bits `{EN, WE, ADDR}`. -/
theorem accepts_mk (r : Row) (e w : Bool) (a : BitVec 8) (v : Word)
    (hm : r.mask = r.mask.extractLsb' 32 10 ++ 0#32) (hp : r.pattern = r.pattern.extractLsb' 32 10 ++ 0#32)
    (h : (BitVec.ofBool e ++ BitVec.ofBool w ++ a) &&& r.mask.extractLsb' 32 10 = r.pattern.extractLsb' 32 10) :
    r.accepts (Txn.mk e w a v) = true := by
  simp only [Row.accepts, beq_iff_eq]
  rw [hm, hp]
  exact (mk_and_mask e w a v _ _).mpr h

/-- The encoding is a word of the instruction's own row: a transaction word its row's mask and pattern accept, or the
symbol's five bits. -/
def Statement (i : Instr) : Prop :=
  i.WellFormed →
    (∃ (r : Row) (w : Txn), txnRows[i.rowIndex]? = some r ∧ encode i = .txn w ∧ r.accepts w = true) ∨
    (i.rowIndex = 21 ∧ encode i = .sym 0b11100) ∨ (i.rowIndex = 22 ∧ encode i = .sym 0b10000)

theorem nop : Statement .nop := fun _ =>
  .inl ⟨_, _, rfl, rfl, accepts_mk _ _ _ _ _ rfl rfl rfl⟩

theorem rdPix (i : BitVec 6) : Statement (.rdPix i) := fun _ =>
  .inl ⟨_, _, rfl, rfl, accepts_mk _ _ _ _ _ rfl rfl (by revert i; decide)⟩

theorem rdLedCount : Statement .rdLedCount := fun _ =>
  .inl ⟨_, _, rfl, rfl, accepts_mk _ _ _ _ _ rfl rfl rfl⟩

theorem rdCtrl : Statement .rdCtrl := fun _ =>
  .inl ⟨_, _, rfl, rfl, accepts_mk _ _ _ _ _ rfl rfl rfl⟩

theorem rdStatus : Statement .rdStatus := fun _ =>
  .inl ⟨_, _, rfl, rfl, accepts_mk _ _ _ _ _ rfl rfl rfl⟩

theorem rdRsvd43 : Statement .rdRsvd43 := fun _ =>
  .inl ⟨_, _, rfl, rfl, accepts_mk _ _ _ _ _ rfl rfl rfl⟩

theorem rdRsvd44 (a : BitVec 8) : Statement (.rdRsvd44 a) := fun h =>
  .inl ⟨_, _, rfl, rfl, accepts_mk _ _ _ _ _ rfl rfl (by
    simp only [Instr.WellFormed, Instr.wf] at h
    revert h; revert a; decide)⟩

theorem rdRsvd48 (a : BitVec 8) : Statement (.rdRsvd48 a) := fun h =>
  .inl ⟨_, _, rfl, rfl, accepts_mk _ _ _ _ _ rfl rfl (by
    simp only [Instr.WellFormed, Instr.wf] at h
    revert h; revert a; decide)⟩

theorem rdRsvd50 (a : BitVec 8) : Statement (.rdRsvd50 a) := fun h =>
  .inl ⟨_, _, rfl, rfl, accepts_mk _ _ _ _ _ rfl rfl (by
    simp only [Instr.WellFormed, Instr.wf] at h
    revert h; revert a; decide)⟩

theorem rdRsvd60 (a : BitVec 8) : Statement (.rdRsvd60 a) := fun h =>
  .inl ⟨_, _, rfl, rfl, accepts_mk _ _ _ _ _ rfl rfl (by
    simp only [Instr.WellFormed, Instr.wf] at h
    revert h; revert a; decide)⟩

theorem rdRsvd80 (a : BitVec 8) : Statement (.rdRsvd80 a) := fun h =>
  .inl ⟨_, _, rfl, rfl, accepts_mk _ _ _ _ _ rfl rfl (by
    simp only [Instr.WellFormed, Instr.wf] at h
    revert h; revert a; decide)⟩

theorem wrPix (i : BitVec 6) (v : Word) : Statement (.wrPix i v) := fun _ =>
  .inl ⟨_, _, rfl, rfl, accepts_mk _ _ _ _ _ rfl rfl (by clear * -; revert i; decide)⟩

theorem wrLedCount (v : Word) : Statement (.wrLedCount v) := fun _ =>
  .inl ⟨_, _, rfl, rfl, accepts_mk _ _ _ _ _ rfl rfl rfl⟩

theorem wrCtrl (v : Word) : Statement (.wrCtrl v) := fun _ =>
  .inl ⟨_, _, rfl, rfl, accepts_mk _ _ _ _ _ rfl rfl rfl⟩

theorem wrStatus (v : Word) : Statement (.wrStatus v) := fun _ =>
  .inl ⟨_, _, rfl, rfl, accepts_mk _ _ _ _ _ rfl rfl rfl⟩

theorem wrRsvd43 (v : Word) : Statement (.wrRsvd43 v) := fun _ =>
  .inl ⟨_, _, rfl, rfl, accepts_mk _ _ _ _ _ rfl rfl rfl⟩

theorem wrRsvd44 (a : BitVec 8) (v : Word) : Statement (.wrRsvd44 a v) := fun h =>
  .inl ⟨_, _, rfl, rfl, accepts_mk _ _ _ _ _ rfl rfl (by
    simp only [Instr.WellFormed, Instr.wf] at h
    revert h; revert a; decide)⟩

theorem wrRsvd48 (a : BitVec 8) (v : Word) : Statement (.wrRsvd48 a v) := fun h =>
  .inl ⟨_, _, rfl, rfl, accepts_mk _ _ _ _ _ rfl rfl (by
    simp only [Instr.WellFormed, Instr.wf] at h
    revert h; revert a; decide)⟩

theorem wrRsvd50 (a : BitVec 8) (v : Word) : Statement (.wrRsvd50 a v) := fun h =>
  .inl ⟨_, _, rfl, rfl, accepts_mk _ _ _ _ _ rfl rfl (by
    simp only [Instr.WellFormed, Instr.wf] at h
    revert h; revert a; decide)⟩

theorem wrRsvd60 (a : BitVec 8) (v : Word) : Statement (.wrRsvd60 a v) := fun h =>
  .inl ⟨_, _, rfl, rfl, accepts_mk _ _ _ _ _ rfl rfl (by
    simp only [Instr.WellFormed, Instr.wf] at h
    revert h; revert a; decide)⟩

theorem wrRsvd80 (a : BitVec 8) (v : Word) : Statement (.wrRsvd80 a v) := fun h =>
  .inl ⟨_, _, rfl, rfl, accepts_mk _ _ _ _ _ rfl rfl (by
    simp only [Instr.WellFormed, Instr.wf] at h
    revert h; revert a; decide)⟩

theorem sym1 : Statement .sym1 := fun _ => .inr (.inl ⟨rfl, rfl⟩)

theorem sym0 : Statement .sym0 := fun _ => .inr (.inr ⟨rfl, rfl⟩)

end Sys2Proof.Laws.RowMatch
end

