-- ==== Sys2Proof/Laws/State.lean ====
section
/-! SUPPORT. One lemma per field of State per operation that updates it, so that no proof unfolds a record update. -/

namespace Sys2Proof.Laws

open Sys2Proof.Machine

/-! ## A clock edge (R174) -/

@[simp] theorem clockEdge_pix (r : HostRequest) (rd : Word) (s : State) : (clockEdge r rd s).pix = match r.pix with | some (i, c) => setPix s.pix i c | none => s.pix := rfl
@[simp] theorem clockEdge_ledCount (r : HostRequest) (rd : Word) (s : State) : (clockEdge r rd s).ledCount = r.ledCount.getD s.ledCount := rfl
@[simp] theorem clockEdge_irqEn (r : HostRequest) (rd : Word) (s : State) : (clockEdge r rd s).irqEn = r.irqEn.getD s.irqEn := rfl
@[simp] theorem clockEdge_busy (r : HostRequest) (rd : Word) (s : State) : (clockEdge r rd s).busy = nextBusy r s := rfl
@[simp] theorem clockEdge_done (r : HostRequest) (rd : Word) (s : State) : (clockEdge r rd s).done = nextDone r s := rfl
@[simp] theorem clockEdge_errCount (r : HostRequest) (rd : Word) (s : State) : (clockEdge r rd s).errCount = nextErrCount r s := rfl
@[simp] theorem clockEdge_errOvr (r : HostRequest) (rd : Word) (s : State) : (clockEdge r rd s).errOvr = nextErrOvr r s := rfl
@[simp] theorem clockEdge_pos (r : HostRequest) (rd : Word) (s : State) : (clockEdge r rd s).pos = nextPos r s := rfl
@[simp] theorem clockEdge_gamma (r : HostRequest) (rd : Word) (s : State) : (clockEdge r rd s).gamma = s.gamma := rfl
@[simp] theorem clockEdge_outReady (r : HostRequest) (rd : Word) (s : State) : (clockEdge r rd s).outReady = s.outReady := rfl
@[simp] theorem clockEdge_inputs (r : HostRequest) (rd : Word) (s : State) : (clockEdge r rd s).inputs = s.inputs := rfl
@[simp] theorem clockEdge_ports (r : HostRequest) (rd : Word) (s : State) : (clockEdge r rd s).ports = s.portsNow rd := rfl
@[simp] theorem clockEdge_emitted (r : HostRequest) (rd : Word) (s : State) : (clockEdge r rd s).emitted = if s.xfer then s.emitted ++ [s.outData] else s.emitted := rfl
@[simp] theorem clockEdge_symOut (r : HostRequest) (rd : Word) (s : State) : (clockEdge r rd s).symOut = s.symOut := rfl
@[simp] theorem clockEdge_draws (r : HostRequest) (rd : Word) (s : State) : (clockEdge r rd s).draws = s.draws := rfl

/-! ## A reset edge (R230) -/

@[simp] theorem resetEdge_pix (rd : Word) (s : State) : (resetEdge rd s).pix = freePix s.draws := by dsimp only [resetEdge]
@[simp] theorem resetEdge_ledCount (rd : Word) (s : State) : (resetEdge rd s).ledCount = 0x00 := by dsimp only [resetEdge]
@[simp] theorem resetEdge_irqEn (rd : Word) (s : State) : (resetEdge rd s).irqEn = false := by dsimp only [resetEdge]
@[simp] theorem resetEdge_busy (rd : Word) (s : State) : (resetEdge rd s).busy = false := by dsimp only [resetEdge]
@[simp] theorem resetEdge_done (rd : Word) (s : State) : (resetEdge rd s).done = false := by dsimp only [resetEdge]
@[simp] theorem resetEdge_errCount (rd : Word) (s : State) : (resetEdge rd s).errCount = false := by dsimp only [resetEdge]
@[simp] theorem resetEdge_errOvr (rd : Word) (s : State) : (resetEdge rd s).errOvr = false := by dsimp only [resetEdge]
@[simp] theorem resetEdge_pos (rd : Word) (s : State) : (resetEdge rd s).pos = 0 := by dsimp only [resetEdge]
@[simp] theorem resetEdge_gamma (rd : Word) (s : State) : (resetEdge rd s).gamma = s.gamma := by dsimp only [resetEdge]
@[simp] theorem resetEdge_outReady (rd : Word) (s : State) : (resetEdge rd s).outReady = s.outReady := by dsimp only [resetEdge]
@[simp] theorem resetEdge_inputs (rd : Word) (s : State) : (resetEdge rd s).inputs = s.inputs := by dsimp only [resetEdge]
@[simp] theorem resetEdge_ports (rd : Word) (s : State) : (resetEdge rd s).ports = s.portsNow rd := by dsimp only [resetEdge]
@[simp] theorem resetEdge_emitted (rd : Word) (s : State) : (resetEdge rd s).emitted = s.emitted := by dsimp only [resetEdge]
@[simp] theorem resetEdge_symOut (rd : Word) (s : State) : (resetEdge rd s).symOut = s.symOut := by dsimp only [resetEdge]
@[simp] theorem resetEdge_draws (rd : Word) (s : State) : (resetEdge rd s).draws = s.draws + 1 := by dsimp only [resetEdge]

/-! ## A line-symbol operation (R144) -/

@[simp] theorem symOp_pix (b : Bool) (s : State) : (symOp b s).pix = s.pix := rfl
@[simp] theorem symOp_ledCount (b : Bool) (s : State) : (symOp b s).ledCount = s.ledCount := rfl
@[simp] theorem symOp_irqEn (b : Bool) (s : State) : (symOp b s).irqEn = s.irqEn := rfl
@[simp] theorem symOp_busy (b : Bool) (s : State) : (symOp b s).busy = s.busy := rfl
@[simp] theorem symOp_done (b : Bool) (s : State) : (symOp b s).done = s.done := rfl
@[simp] theorem symOp_errCount (b : Bool) (s : State) : (symOp b s).errCount = s.errCount := rfl
@[simp] theorem symOp_errOvr (b : Bool) (s : State) : (symOp b s).errOvr = s.errOvr := rfl
@[simp] theorem symOp_pos (b : Bool) (s : State) : (symOp b s).pos = s.pos := rfl
@[simp] theorem symOp_gamma (b : Bool) (s : State) : (symOp b s).gamma = s.gamma := rfl
@[simp] theorem symOp_outReady (b : Bool) (s : State) : (symOp b s).outReady = s.outReady := rfl
@[simp] theorem symOp_inputs (b : Bool) (s : State) : (symOp b s).inputs = s.inputs := rfl
@[simp] theorem symOp_ports (b : Bool) (s : State) : (symOp b s).ports = s.ports := rfl
@[simp] theorem symOp_emitted (b : Bool) (s : State) : (symOp b s).emitted = s.emitted := rfl
@[simp] theorem symOp_symOut (b : Bool) (s : State) : (symOp b s).symOut = sym b := rfl
@[simp] theorem symOp_draws (b : Bool) (s : State) : (symOp b s).draws = s.draws := rfl

/-! ## The sink's pin -/

@[simp] theorem setReady_pix (s : State) (rdy : Bool) : (s.setReady rdy).pix = s.pix := rfl
@[simp] theorem setReady_ledCount (s : State) (rdy : Bool) : (s.setReady rdy).ledCount = s.ledCount := rfl
@[simp] theorem setReady_irqEn (s : State) (rdy : Bool) : (s.setReady rdy).irqEn = s.irqEn := rfl
@[simp] theorem setReady_busy (s : State) (rdy : Bool) : (s.setReady rdy).busy = s.busy := rfl
@[simp] theorem setReady_done (s : State) (rdy : Bool) : (s.setReady rdy).done = s.done := rfl
@[simp] theorem setReady_errCount (s : State) (rdy : Bool) : (s.setReady rdy).errCount = s.errCount := rfl
@[simp] theorem setReady_errOvr (s : State) (rdy : Bool) : (s.setReady rdy).errOvr = s.errOvr := rfl
@[simp] theorem setReady_pos (s : State) (rdy : Bool) : (s.setReady rdy).pos = s.pos := rfl
@[simp] theorem setReady_gamma (s : State) (rdy : Bool) : (s.setReady rdy).gamma = s.gamma := rfl
@[simp] theorem setReady_outReady (s : State) (rdy : Bool) : (s.setReady rdy).outReady = rdy := rfl
@[simp] theorem setReady_inputs (s : State) (rdy : Bool) : (s.setReady rdy).inputs = s.inputs := rfl
@[simp] theorem setReady_ports (s : State) (rdy : Bool) : (s.setReady rdy).ports = s.ports := rfl
@[simp] theorem setReady_emitted (s : State) (rdy : Bool) : (s.setReady rdy).emitted = s.emitted := rfl
@[simp] theorem setReady_symOut (s : State) (rdy : Bool) : (s.setReady rdy).symOut = s.symOut := rfl
@[simp] theorem setReady_draws (s : State) (rdy : Bool) : (s.setReady rdy).draws = s.draws := rfl

/-! ## Taking the next input: only the script and the draw counter move -/

@[simp] theorem popInput_pix (s : State) : s.popInput.pix = s.pix := by
  unfold State.popInput; split <;> rfl
@[simp] theorem popInput_ledCount (s : State) : s.popInput.ledCount = s.ledCount := by
  unfold State.popInput; split <;> rfl
@[simp] theorem popInput_irqEn (s : State) : s.popInput.irqEn = s.irqEn := by
  unfold State.popInput; split <;> rfl
@[simp] theorem popInput_busy (s : State) : s.popInput.busy = s.busy := by
  unfold State.popInput; split <;> rfl
@[simp] theorem popInput_done (s : State) : s.popInput.done = s.done := by
  unfold State.popInput; split <;> rfl
@[simp] theorem popInput_errCount (s : State) : s.popInput.errCount = s.errCount := by
  unfold State.popInput; split <;> rfl
@[simp] theorem popInput_errOvr (s : State) : s.popInput.errOvr = s.errOvr := by
  unfold State.popInput; split <;> rfl
@[simp] theorem popInput_pos (s : State) : s.popInput.pos = s.pos := by
  unfold State.popInput; split <;> rfl
@[simp] theorem popInput_gamma (s : State) : s.popInput.gamma = s.gamma := by
  unfold State.popInput; split <;> rfl
@[simp] theorem popInput_outReady (s : State) : s.popInput.outReady = s.outReady := by
  unfold State.popInput; split <;> rfl
@[simp] theorem popInput_ports (s : State) : s.popInput.ports = s.ports := by
  unfold State.popInput; split <;> rfl
@[simp] theorem popInput_emitted (s : State) : s.popInput.emitted = s.emitted := by
  unfold State.popInput; split <;> rfl
@[simp] theorem popInput_symOut (s : State) : s.popInput.symOut = s.symOut := by
  unfold State.popInput; split <;> rfl

/-! ## Functions of the registers do not see the pins -/

@[simp] theorem pixAt_popInput (s : State) (i : BitVec 6) : s.popInput.pixAt i = s.pixAt i := by
  simp only [State.pixAt, popInput_pix]

@[simp] theorem outData_setReady (s : State) (rdy : Bool) : (s.setReady rdy).outData = s.outData := rfl
@[simp] theorem atLast_setReady (s : State) (rdy : Bool) : (s.setReady rdy).atLast = s.atLast := rfl
@[simp] theorem portsNow_setReady (s : State) (rdy : Bool) (rd : Word) :
    (s.setReady rdy).portsNow rd = s.portsNow rd := rfl
@[simp] theorem rdata_setReady (s : State) (rdy : Bool) (w : Txn) : (s.setReady rdy).rdata w = s.rdata w := rfl
@[simp] theorem countLegal_setReady (s : State) (rdy : Bool) : (s.setReady rdy).countLegal = s.countLegal := rfl

@[simp] theorem atLast_popInput (s : State) : s.popInput.atLast = s.atLast := by
  simp only [State.atLast, popInput_pos, popInput_ledCount]
@[simp] theorem outData_popInput (s : State) : s.popInput.outData = s.outData := by
  simp only [State.outData, popInput_busy, popInput_gamma, popInput_pix, popInput_ledCount, popInput_pos]
@[simp] theorem countLegal_popInput (s : State) : s.popInput.countLegal = s.countLegal := by
  simp only [State.countLegal, popInput_ledCount]
@[simp] theorem portsNow_popInput (s : State) (rd : Word) : s.popInput.portsNow rd = s.portsNow rd := by
  simp only [State.portsNow, State.outValid, State.outLast, State.irq, outData_popInput, atLast_popInput, popInput_busy,
    popInput_irqEn, popInput_done, popInput_errCount, popInput_errOvr]
@[simp] theorem rdata_popInput (s : State) (w : Txn) : s.popInput.rdata w = s.rdata w := by
  simp only [State.rdata, State.busRead, State.readPix, State.readLedCount, State.readCtrl, State.readStatus,
    pixAt_popInput, popInput_ledCount, popInput_irqEn, popInput_errOvr, popInput_errCount, popInput_done, popInput_busy]

/-! ## Placing a word (R71; notes/assumptions/13.md) -/

/-- The word placed is the next input, as a cycle without reset or as a line-symbol operation. -/
theorem nextInput_withWord (s : State) (f : FetchWord) :
    (∃ w rdy, f = .txn w ∧ (s.withWord f).nextInput = .cycle w rdy false) ∨
    (∃ b, f = .sym b ∧ (s.withWord f).nextInput = .expand b) := by
  cases f with
  | txn w => exact .inl ⟨w, _, rfl, rfl⟩
  | sym b => exact .inr ⟨b, rfl, rfl⟩

end Sys2Proof.Laws
end

