-- ==== Sys2Proof/Laws/Step.lean ====
section
/-! SUPPORT. Everything a step can do, said once: what a transaction asks of its edge, and the three shapes of a step. -/

namespace Sys2Proof.Laws

open Sys2Proof.Machine Sys2Proof.Safety

/-- What a transaction word asks of the edge (R174), by the operation it decodes to. -/
def requestOf (w : Txn) (s : State) : HostRequest :=
  match decodeTxn w with
  | .wrPix i v => wrPixRequest i v s
  | .wrLedCount v => wrLedCountRequest v s
  | .wrCtrl v => wrCtrlRequest v s
  | .wrStatus v => wrStatusRequest v
  | _ => HostRequest.nothing

/-- The operation of a transaction word is one clock edge with the word's request and its read data. -/
theorem exec_decodeTxn (w : Txn) (s : State) :
    exec (decodeTxn w) s = .next (clockEdge (requestOf w s) (s.rdata w) s) := by
  rcases he : w.en with _ | _
  · simp [requestOf, decodeTxn_idle w he, exec, execNop, State.rdata, he]
  · rcases hw : w.we with _ | _
    · have hd := decodeTxn_read w he hw
      rcases decodeRead_cases w.addr with ⟨h, e⟩ | ⟨h, e⟩ | ⟨h, e⟩ | ⟨h, e⟩ | ⟨h, e⟩ | ⟨h, e⟩ | ⟨h, e⟩ | ⟨h, e⟩ |
        ⟨h, e⟩ | ⟨h, e⟩
      · have hr : s.rdata w = s.readPix (w.addr.extractLsb' 0 6) := by simp [State.rdata, State.busRead, he, hw, h]
        simp only [requestOf, hd, e, exec, execRdPix, hr]
      · have hr : s.rdata w = s.readLedCount := by simp [State.rdata, State.busRead, he, hw, h]
        simp only [requestOf, hd, e, exec, execRdLedCount, hr]
      · have hr : s.rdata w = s.readCtrl := by simp [State.rdata, State.busRead, he, hw, h]
        simp only [requestOf, hd, e, exec, execRdCtrl, hr]
      · have hr : s.rdata w = s.readStatus := by simp [State.rdata, State.busRead, he, hw, h]
        simp only [requestOf, hd, e, exec, execRdStatus, hr]
      · have hr : s.rdata w = 0 := by simp [State.rdata, State.busRead, he, hw, h]
        simp only [requestOf, hd, e, exec, execRdRsvd43, hr]
      all_goals
        have hr : s.rdata w = 0 := by
          simp only [addrIn, Bool.and_eq_true, decide_eq_true_eq] at h
          obtain ⟨-, h0, h1, h2, -⟩ := reserved_passes w.addr (by omega)
          have h3 : ¬ w.addr.toNat < 0x40 := by omega
          simp only [State.rdata, State.busRead, he, hw, h0, h1, h2, h3, if_false]
          simp
        simp only [requestOf, hd, e, exec, execRdRsvd44, execRdRsvd48, execRdRsvd50, execRdRsvd60, execRdRsvd80, hr]
    · have hd := decodeTxn_write w he hw
      have hr : s.rdata w = 0 := by simp [State.rdata, he, hw]
      rcases decodeWrite_cases w.addr w.wdata with ⟨h, e⟩ | ⟨h, e⟩ | ⟨h, e⟩ | ⟨h, e⟩ | ⟨h, e⟩ | ⟨h, e⟩ | ⟨h, e⟩ | ⟨h, e⟩ |
        ⟨h, e⟩ | ⟨h, e⟩ <;>
      simp only [requestOf, hd, e, exec, execWrPix, execWrLedCount, execWrCtrl, execWrStatus, execWrRsvd43,
        execWrRsvd44, execWrRsvd48, execWrRsvd50, execWrRsvd60, execWrRsvd80, hr]

/-- A cycle with `rst` = 1. -/
theorem step_reset (s : State) (w : Txn) (rdy : Bool) (h : s.nextInput = .cycle w rdy true) :
    step s = .next (resetEdge (s.rdata w) (s.popInput.setReady rdy)) := by
  simp [step, h, runCycle]

/-- A cycle with `rst` = 0. -/
theorem step_cycle (s : State) (w : Txn) (rdy : Bool) (h : s.nextInput = .cycle w rdy false) :
    step s = .next (clockEdge (requestOf w (s.popInput.setReady rdy)) (s.rdata w) (s.popInput.setReady rdy)) := by
  simp [step, h, runCycle, runWord, decode, exec_decodeTxn]

/-- A line-symbol operation, or its refusal. -/
theorem step_expand (s : State) (b : Byte) (h : s.nextInput = .expand b) :
    step s = if b = 0b11100 then .next (symOp true s.popInput)
      else if b = 0b10000 then .next (symOp false s.popInput) else .refused (.notALineSymbol b) := by
  simp only [step, h, runWord, decode, decodeSym]
  split_ifs <;> rfl

/-- The three shapes of a step that answers a next state. -/
theorem step_cases {s t : State} (h : step s = .next t) :
    (∃ w rdy, s.nextInput = .cycle w rdy true ∧ t = resetEdge (s.rdata w) (s.popInput.setReady rdy)) ∨
    (∃ w rdy, s.nextInput = .cycle w rdy false ∧
      t = clockEdge (requestOf w (s.popInput.setReady rdy)) (s.rdata w) (s.popInput.setReady rdy)) ∨
    (∃ b v, s.nextInput = .expand b ∧ t = symOp v s.popInput) := by
  rcases hn : s.nextInput with ⟨w, rdy, rst⟩ | b
  · cases rst with
    | true => rw [step_reset s w rdy hn] at h; cases h; exact .inl ⟨w, rdy, rfl, rfl⟩
    | false => rw [step_cycle s w rdy hn] at h; cases h; exact .inr (.inl ⟨w, rdy, rfl, rfl⟩)
  · rw [step_expand s b hn] at h
    split_ifs at h
    · cases h; exact .inr (.inr ⟨b, true, rfl, rfl⟩)
    · cases h; exact .inr (.inr ⟨b, false, rfl, rfl⟩)

/-- A cycle always answers a next state (R78, R200). -/
theorem step_cycle_next (s : State) (w : Txn) (rdy rst : Bool) (h : s.nextInput = .cycle w rdy rst) :
    ∃ t, step s = .next t := by
  cases rst with
  | true => exact ⟨_, step_reset s w rdy h⟩
  | false => exact ⟨_, step_cycle s w rdy h⟩

end Sys2Proof.Laws
end

