-- ==== Sys2Proof/Laws/Requests.lean ====
section
/-! SUPPORT. What a transaction word asks of its edge, field by field, on the word's own bits; and the edge of a cycle in
which the host asks nothing. -/

namespace Sys2Proof.Laws

open Sys2Proof.Machine Sys2Proof.Safety

theorem wdataCell_wdata (w : Txn) : wdataCell w.wdata = w.extractLsb' 0 24 := by
  apply BitVec.eq_of_getLsbD_eq
  intro i hi
  simp [wdataCell, Txn.wdata, hi]

theorem wdataCount_wdata (w : Txn) : wdataCount w.wdata = w.extractLsb' 0 8 := by
  apply BitVec.eq_of_getLsbD_eq
  intro i hi
  simp [wdataCount, Txn.wdata, hi]

/-- The request of a word, field by field, on the word's own bits. -/
theorem requestOf_eq (w : Txn) (s : State) : requestOf w s =
    { pix := if (writesPix w && !s.busy) = true then some (w.addr.extractLsb' 0 6, w.extractLsb' 0 24) else none
      ledCount := if (writesTo w 0x40 && !s.busy) = true then some (w.extractLsb' 0 8) else none
      irqEn := if writesTo w 0x41 = true then some (w.getLsbD 1) else none
      start := isStart w && !s.busy && s.countLegal
      setOvr := s.busy && (writesPix w || writesTo w 0x40 || isStart w)
      setCnt := isStart w && !s.busy && !s.countLegal
      clrDone := writesTo w 0x42 && w.getLsbD 1
      clrCnt := writesTo w 0x42 && w.getLsbD 2
      clrOvr := writesTo w 0x42 && w.getLsbD 3 } := by
  have hw0 := wdata_bit w 0 (by omega)
  have hw1 := wdata_bit w 1 (by omega)
  have hw2 := wdata_bit w 2 (by omega)
  have hw3 := wdata_bit w 3 (by omega)
  by_cases hb : (w.en && w.we) = true
  · obtain ⟨he, hw⟩ := Bool.and_eq_true_iff.mp hb
    have hd := decodeTxn_write w he hw
    have hbits : (w.getLsbD 41 && w.getLsbD 40) = true := hb
    have nb : ∀ k : BitVec 8, w.addr = k → w.addr.toNat = k.toNat := fun k h => congrArg _ h
    simp only [isStart, writesPix, writesTo, txnAddr_eq, hbits, Bool.true_and]
    rcases decodeWrite_cases w.addr w.wdata with ⟨h, e⟩ | ⟨h, e⟩ | ⟨h, e⟩ | ⟨h, e⟩ | ⟨h, e⟩ | ⟨h, e⟩ | ⟨h, e⟩ | ⟨h, e⟩ |
      ⟨h, e⟩ | ⟨h, e⟩ <;> simp only [requestOf, hd, e]
    · have h1 : w.addr.toNat ≠ 64 := by omega
      have h2 : w.addr.toNat ≠ 65 := by omega
      have h3 : w.addr.toNat ≠ 66 := by omega
      rcases hs : s.busy <;> simp [wrPixRequest, HostRequest.nothing, h, h1, h2, h3, hs, wdataCell_wdata]
    · rcases hs : s.busy <;> simp [wrLedCountRequest, HostRequest.nothing, nb _ h, hs, wdataCount_wdata]
    · simp only [wrCtrlRequest, hw0, hw1]
      generalize BitVec.getLsbD w 0 = b0
      generalize BitVec.getLsbD w 1 = b1
      rcases hs : s.busy <;> rcases hc : s.countLegal <;> cases b0 <;> simp [HostRequest.nothing, nb _ h]
    · simp only [wrStatusRequest, hw1, hw2, hw3]
      simp [HostRequest.nothing, nb _ h]
    · simp [HostRequest.nothing, nb _ h]
    all_goals
      simp only [addrIn, Bool.and_eq_true, decide_eq_true_eq] at h
      have h0 : ¬ w.addr.toNat < 64 := by omega
      have h1 : w.addr.toNat ≠ 64 := by omega
      have h2 : w.addr.toNat ≠ 65 := by omega
      have h3 : w.addr.toNat ≠ 66 := by omega
      simp [HostRequest.nothing, h0, h1, h2, h3]
  · have hbits : (w.getLsbD 41 && w.getLsbD 40) = false := by simpa [Txn.en, Txn.we] using hb
    have hn : requestOf w s = HostRequest.nothing := by
      rcases he : w.en with _ | _
      · simp only [requestOf, decodeTxn_idle w he]
      · have hw : w.we = false := by simpa [he] using hb
        have hd := decodeTxn_read w he hw
        rcases decodeRead_cases w.addr with ⟨h, e⟩ | ⟨h, e⟩ | ⟨h, e⟩ | ⟨h, e⟩ | ⟨h, e⟩ | ⟨h, e⟩ | ⟨h, e⟩ | ⟨h, e⟩ |
          ⟨h, e⟩ | ⟨h, e⟩ <;> simp only [requestOf, hd, e]
    simp only [hn, HostRequest.nothing, isStart, writesPix, writesTo, hbits, Bool.false_and]
    simp

/-- The ports of the model are those of R29's equations. -/
theorem portsNow_eq (rd : Word) (s : State) : s.portsNow rd = portsR29 rd s := by
  simp only [State.portsNow, portsR29, State.outValid, State.outData, State.outLast, State.irq, State.atLast, lastIndex]

/-- The last transfer, as the model and the claims say it. -/
theorem seqDone_eq (s : State) : s.seqDone = lastTransfer s := rfl

/-- An edge of which the host asks nothing moves the sequencer only (R172, R173). -/
theorem clockEdge_nothing (rd : Word) (s : State) : clockEdge HostRequest.nothing rd s = quietCycle rd s := by
  simp only [clockEdge, quietCycle, HostRequest.nothing, nextBusy, nextPos, nextDone, nextErrCount, nextErrOvr,
    portsNow_eq, State.seqDone, State.xfer, State.atLast, State.outData, lastIndex]
  by_cases hb : s.busy = true <;> by_cases hr : s.outReady = true <;>
    by_cases hp : s.pos.toNat = 15 * s.ledCount.toNat + 1 <;> simp [hb, hr, hp]

end Sys2Proof.Laws
end

