-- ==== Sys2Proof/Laws/Run.lean ====
section
/-! SUPPORT. Runs of several steps, taken apart step by step; and the free pixels of a reset edge. -/

namespace Sys2Proof.Laws

open Sys2Proof.Machine Sys2Proof.Safety

/-- A run goes on from the state its first step gives. -/
theorem run_succ {s t : State} (k : Nat) (h : step s = .next t) : core.run (k + 1) s = core.run k t := by
  have h' : core.step s = .next t := h
  simp only [Host.Core.run, h']

/-- A run of `a` steps that ends in `t` goes on from `t`. -/
theorem run_add (a b : Nat) {s t : State} (h : core.run a s = .next t) : core.run (a + b) s = core.run b t := by
  induction a generalizing s with
  | zero => cases h; simp
  | succ a ih =>
    rcases hs : step s with s' | f | r
    · rw [run_succ _ hs] at h
      rw [show a + 1 + b = (a + b) + 1 by omega, run_succ _ hs]
      exact ih h
    · exact nomatch f
    · have h' : core.step s = .refused r := hs
      simp only [Host.Core.run, h'] at h
      cases h

/-- A script's first input is the next one, and the rest remains. -/
theorem nextInput_cons {s : State} {x : Input} {xs : List Input} (h : s.inputs = x :: xs) :
    s.nextInput = x ∧ s.popInput = { s with inputs := xs } := by
  simp [State.nextInput, State.popInput, h]

/-- A legal count, as numbers. -/
theorem countLegal_iff (s : State) : s.countLegal = true ↔ 1 ≤ s.ledCount.toNat ∧ s.ledCount.toNat ≤ 64 := by
  unfold State.countLegal
  rw [Bool.and_eq_true, decide_eq_true_iff, decide_eq_true_iff]
  rfl

/-- The model and the claims name the same legal counts. -/
theorem countLegal_eq (s : State) : s.countLegal = legalCount s.ledCount := by
  rw [Bool.eq_iff_iff, countLegal_iff]
  simp [legalCount]

/-- Each pixel of the store drawn at a reset edge is that draw's free cell. -/
theorem freePix_getElem (k : Nat) (i : BitVec 6) : (freePix k)[i.toNat]'i.isLt = Config.freeCell k i := by
  simp [freePix]

end Sys2Proof.Laws
end

