-- ==== Sys2Proof/Tests/Slice0.lean ====
section
/-! SUPPORT. Tests: expected values are the spec's own (95_test_vectors.md, or the rule named), never the model's answer.
Witnesses: for each obligation with hypotheses, concrete states and operands that meet them. -/

namespace Sys2Proof.Tests

open Sys2Proof Sys2Proof.Machine Sys2Proof.Safety

/-! ## Small states -/

/-- After reset, with every pixel written 0. -/
def blank : State := { State.reset with pix := Vector.replicate 64 0x000000 }

/-- `blank` with one LED of the given cell. -/
def oneLed (x : Color) : State := { blank with pix := setPix blank.pix 0 x, ledCount := 1 }

/-- In the middle of the encode of one LED of the cell `0x140A1E`, at byte `p`. -/
def busyAt (p : BitVec 10) : State := { oneLed 0x140A1E with busy := true, pos := p }

/-- The state with the pins of its next cycle. -/
def cyc (w : Txn) (rdy rst : Bool) (s : State) : State := { s with inputs := [.cycle w rdy rst] }

/-- Whether an outcome is a next state with the property. -/
def nextIs (o : Host.Outcome State Fault Refusal) (p : State → Bool) : Bool :=
  match o with
  | .next t => p t
  | .fault _ => false
  | .refused _ => false

/-- The state after one step; the state itself where the step stops. -/
def after (s : State) : State :=
  match step s with
  | .next t => t
  | .fault _ => s
  | .refused _ => s

/-- The state after the cycle with these pins. -/
def did (w : Txn) (rdy rst : Bool) (s : State) : State := after (cyc w rdy rst s)

theorem step_after {s : State} (h : nextIs (step s) (fun _ => true) = true) : step s = .next (after s) := by
  unfold after
  revert h
  cases step s <;> simp [nextIs]

/-! ## WellFormed: for each check a term it refuses, and the ends of each range -/

theorem test_wf_rdRsvd44 :
    ¬ (Instr.rdRsvd44 0x43).WellFormed ∧ ¬ (Instr.rdRsvd44 0x48).WellFormed ∧
    (Instr.rdRsvd44 0x44).WellFormed ∧ (Instr.rdRsvd44 0x47).WellFormed := by decide
theorem test_wf_wrRsvd44 :
    ¬ (Instr.wrRsvd44 0x43 0).WellFormed ∧ ¬ (Instr.wrRsvd44 0x48 0).WellFormed ∧
    (Instr.wrRsvd44 0x44 0).WellFormed ∧ (Instr.wrRsvd44 0x47 0).WellFormed := by decide
theorem test_wf_rdRsvd48 :
    ¬ (Instr.rdRsvd48 0x47).WellFormed ∧ ¬ (Instr.rdRsvd48 0x50).WellFormed ∧
    (Instr.rdRsvd48 0x48).WellFormed ∧ (Instr.rdRsvd48 0x4f).WellFormed := by decide
theorem test_wf_wrRsvd48 :
    ¬ (Instr.wrRsvd48 0x47 0).WellFormed ∧ ¬ (Instr.wrRsvd48 0x50 0).WellFormed ∧
    (Instr.wrRsvd48 0x48 0).WellFormed ∧ (Instr.wrRsvd48 0x4f 0).WellFormed := by decide
theorem test_wf_rdRsvd50 :
    ¬ (Instr.rdRsvd50 0x4f).WellFormed ∧ ¬ (Instr.rdRsvd50 0x60).WellFormed ∧
    (Instr.rdRsvd50 0x50).WellFormed ∧ (Instr.rdRsvd50 0x5f).WellFormed := by decide
theorem test_wf_wrRsvd50 :
    ¬ (Instr.wrRsvd50 0x4f 0).WellFormed ∧ ¬ (Instr.wrRsvd50 0x60 0).WellFormed ∧
    (Instr.wrRsvd50 0x50 0).WellFormed ∧ (Instr.wrRsvd50 0x5f 0).WellFormed := by decide
theorem test_wf_rdRsvd60 :
    ¬ (Instr.rdRsvd60 0x5f).WellFormed ∧ ¬ (Instr.rdRsvd60 0x80).WellFormed ∧
    (Instr.rdRsvd60 0x60).WellFormed ∧ (Instr.rdRsvd60 0x7f).WellFormed := by decide
theorem test_wf_wrRsvd60 :
    ¬ (Instr.wrRsvd60 0x5f 0).WellFormed ∧ ¬ (Instr.wrRsvd60 0x80 0).WellFormed ∧
    (Instr.wrRsvd60 0x60 0).WellFormed ∧ (Instr.wrRsvd60 0x7f 0).WellFormed := by decide
theorem test_wf_rdRsvd80 :
    ¬ (Instr.rdRsvd80 0x7f).WellFormed ∧
    (Instr.rdRsvd80 0x80).WellFormed ∧ (Instr.rdRsvd80 0xff).WellFormed := by decide
theorem test_wf_wrRsvd80 :
    ¬ (Instr.wrRsvd80 0x7f 0).WellFormed ∧
    (Instr.wrRsvd80 0x80 0).WellFormed ∧ (Instr.wrRsvd80 0xff 0).WellFormed := by decide

/-! ## Decoding: one word per row, written from R71 and R72 as EN, WE, ADDR, WDATA -/

theorem test_decode_nop : decode (.txn (0#1 ++ 1#1 ++ 0xAB#8 ++ 0xFFFFFFFF#32)) = .ok (.nop) := by decide
theorem test_decode_rdPix : decode (.txn (1#1 ++ 0#1 ++ 0b00111111#8 ++ 0#32)) = .ok (.rdPix 63) := by decide
theorem test_decode_rdLedCount : decode (.txn (1#1 ++ 0#1 ++ 0x40#8 ++ 0#32)) = .ok (.rdLedCount) := by decide
theorem test_decode_rdCtrl : decode (.txn (1#1 ++ 0#1 ++ 0x41#8 ++ 0#32)) = .ok (.rdCtrl) := by decide
theorem test_decode_rdStatus : decode (.txn (1#1 ++ 0#1 ++ 0x42#8 ++ 0#32)) = .ok (.rdStatus) := by decide
theorem test_decode_rdRsvd43 : decode (.txn (1#1 ++ 0#1 ++ 0x43#8 ++ 0#32)) = .ok (.rdRsvd43) := by decide
theorem test_decode_rdRsvd44 : decode (.txn (1#1 ++ 0#1 ++ 0x47#8 ++ 0#32)) = .ok (.rdRsvd44 0x47) := by decide
theorem test_decode_rdRsvd48 : decode (.txn (1#1 ++ 0#1 ++ 0x48#8 ++ 0#32)) = .ok (.rdRsvd48 0x48) := by decide
theorem test_decode_rdRsvd50 : decode (.txn (1#1 ++ 0#1 ++ 0x5F#8 ++ 0#32)) = .ok (.rdRsvd50 0x5F) := by decide
theorem test_decode_rdRsvd60 : decode (.txn (1#1 ++ 0#1 ++ 0x60#8 ++ 0#32)) = .ok (.rdRsvd60 0x60) := by decide
theorem test_decode_rdRsvd80 : decode (.txn (1#1 ++ 0#1 ++ 0x80#8 ++ 0#32)) = .ok (.rdRsvd80 0x80) := by decide
theorem test_decode_wrPix :
    decode (.txn (1#1 ++ 1#1 ++ 0b00000101#8 ++ 0x000A141E#32)) = .ok (.wrPix 5 0x000A141E) := by decide
theorem test_decode_wrLedCount :
    decode (.txn (1#1 ++ 1#1 ++ 0x40#8 ++ 0x00000141#32)) = .ok (.wrLedCount 0x141) := by decide
theorem test_decode_wrCtrl : decode (.txn (1#1 ++ 1#1 ++ 0x41#8 ++ 0x00000003#32)) = .ok (.wrCtrl 3) := by decide
theorem test_decode_wrStatus : decode (.txn (1#1 ++ 1#1 ++ 0x42#8 ++ 0x0000000E#32)) = .ok (.wrStatus 0xE) := by decide
theorem test_decode_wrRsvd43 :
    decode (.txn (1#1 ++ 1#1 ++ 0x43#8 ++ 0xFFFFFFFF#32)) = .ok (.wrRsvd43 0xFFFFFFFF) := by decide
theorem test_decode_wrRsvd44 :
    decode (.txn (1#1 ++ 1#1 ++ 0x44#8 ++ 0x12345678#32)) = .ok (.wrRsvd44 0x44 0x12345678) := by decide
theorem test_decode_wrRsvd48 :
    decode (.txn (1#1 ++ 1#1 ++ 0x4F#8 ++ 0x12345678#32)) = .ok (.wrRsvd48 0x4F 0x12345678) := by decide
theorem test_decode_wrRsvd50 :
    decode (.txn (1#1 ++ 1#1 ++ 0x50#8 ++ 0x00000001#32)) = .ok (.wrRsvd50 0x50 1) := by decide
theorem test_decode_wrRsvd60 :
    decode (.txn (1#1 ++ 1#1 ++ 0x7F#8 ++ 0x00000001#32)) = .ok (.wrRsvd60 0x7F 1) := by decide
theorem test_decode_wrRsvd80 :
    decode (.txn (1#1 ++ 1#1 ++ 0xFF#8 ++ 0xFFFFFFFF#32)) = .ok (.wrRsvd80 0xFF 0xFFFFFFFF) := by decide
theorem test_decode_sym1 : decode (.sym 0b11100) = .ok .sym1 := by decide
theorem test_decode_sym0 : decode (.sym 0b10000) = .ok .sym0 := by decide

/-- R74: the other patterns, `00000` and `11111` among them, are no symbol. -/
theorem test_decode_no_symbol : decode (.sym 0b00000) = .error (.notALineSymbol 0) ∧
    decode (.sym 0b11111) = .error (.notALineSymbol 0b11111) := by decide

/-- The host's numbering of bits: the pattern of a row is its first word. -/
theorem test_table_word : decodeTableWord 48 0x30000000000 = some (.wrPix 0 0) ∧
    decodeTableWord 8 0b11100 = some .sym1 ∧ decodeTableWord 48 0x40000000000 = none := by decide

/-- A placed word runs as the first instruction after reset. -/
theorem test_withFetchWord : nextIs (step (State.reset.withFetchWord 48 0x34000000002)) (fun t => t.ledCount == 2) = true ∧
    nextIs (step (State.reset.withFetchWord 8 0b10000)) (fun t => t.symOut == 0b10000) = true := by decide

/-- R82's worked words. -/
theorem test_assemble : (Stmt.wr (.pix 5) 0x0A141E).assemble = 0x305000A141E ∧
    (Stmt.rd .status).assemble = 0x24200000000 ∧ Stmt.nop.assemble = 0 := by decide

/-! ## The datapath (95_test_vectors.md L2.1 to L2.4) -/

theorem test_gamma : [0, 18, 19, 42, 43, 64, 93, 128, 153, 172, 192, 210, 224, 254, 255].map (correct gammaDefault)
    = [0, 0, 1, 1, 2, 3, 6, 15, 26, 40, 63, 94, 127, 244, 250] := by decide

theorem test_expand : [0x00, 0x02, 0x55, 0x80, 0xAA, 0xFA, 0xFE].map expand
    = [0x8421084210, 0x8421084390, 0x8721C8721C, 0xE421084210, 0xE4390E4390, 0xE739CE4390, 0xE739CE7390] := by decide

theorem test_chBytes : (chBytes 0xFA).toList = [0xE7, 0x39, 0xCE, 0x43, 0x90] ∧
    (chBytes 0x55).toList = [0x87, 0x21, 0xC8, 0x72, 0x1C] := by decide

theorem test_encodeLed : encodeLed gammaDefault 0x133A5F
    = [0x84, 0x21, 0x08, 0x42, 0x1C, 0x84, 0x21, 0x08, 0x43, 0x9C, 0x84, 0x21, 0x08, 0x73, 0x9C] := by decide

theorem test_encodeRow : encodeRow gammaDefault (oneLed 0x140A1E).pix 1
    = [0x00, 0x84, 0x21, 0x08, 0x42, 0x1C, 0x84, 0x21, 0x08, 0x42, 0x10, 0x84, 0x21, 0x08, 0x42, 0x1C, 0x00] := by decide

theorem test_rowByte : [0, 1, 5, 6, 15, 16, 17, 30, 31].map
      (rowByte gammaDefault (setPix (setPix blank.pix 0 0x133A5F) 1 0xFFFFFF) 2)
    = [0x00, 0x84, 0x1C, 0x84, 0x9C, 0xE7, 0x39, 0x90, 0x00] := by decide

/-! ## One step (95_test_vectors.md L2.6 to L2.9; the vector's number or the rule stands above each) -/

/-- R172's example: at byte 3 with the sink ready, byte 3 leaves and `POS` becomes 4. -/
theorem test_nop_transfers : (did 0x00000000000 true false (busyAt 3)).pos = 4 ∧
    (did 0x00000000000 true false (busyAt 3)).emitted = [0x08] := by decide

/-- S9: not ready, `POS` stays; and S11: not busy, nothing moves. -/
theorem test_nop_stalled :
    (did 0x00000000000 false false (busyAt 3)).pos = 3 ∧ (did 0x00000000000 true false blank).emitted = [] := by decide

/-- H4: allowed while busy, no flag. -/
theorem test_rdPix : (did 0x20000000000 false false (busyAt 3)).ports.busRdata = 0x00140A1E ∧
    (did 0x20000000000 false false (busyAt 3)).errOvr = false := by decide

/-- R104's example: an illegal count reads back. -/
theorem test_rdLedCount :
    (did 0x24000000000 true false { blank with ledCount := 0x41 }).ports.busRdata = 0x00000041 := by decide

/-- R105's example. -/
theorem test_rdCtrl :
    (did 0x24100000000 true false { blank with irqEn := true }).ports.busRdata = 0x00000002 := by decide

/-- P4, cycles 21 and 38. -/
theorem test_rdStatus : (did 0x24200000000 true false { busyAt 0 with errOvr := true }).ports.busRdata = 0x00000009 ∧
    (did 0x24200000000 true false { blank with done := true, errOvr := true }).ports.busRdata = 0x0000000A := by decide

/-- H19. -/
theorem test_rdRsvd43 : (did 0x24300000000 false false (busyAt 3)).ports.busRdata = 0 := by decide

/-- H19. -/
theorem test_rdRsvd44 : (did 0x24500000000 false false (busyAt 3)).ports.busRdata = 0 := by decide

/-- H19. -/
theorem test_rdRsvd48 : (did 0x24a00000000 false false (busyAt 3)).ports.busRdata = 0 := by decide

/-- H19. -/
theorem test_rdRsvd50 : (did 0x25000000000 false false (busyAt 3)).ports.busRdata = 0 := by decide

/-- H19. -/
theorem test_rdRsvd60 : (did 0x26000000000 false false (busyAt 3)).ports.busRdata = 0 := by decide

/-- H19. -/
theorem test_rdRsvd80 : (did 0x2ff00000000 false false (busyAt 3)).ports.busRdata = 0 := by decide

/-- H1, and H2's ignored top byte. -/
theorem test_wrPix :
    (did 0x30000ABCDEF true false blank).pixAt 0 = 0xABCDEF ∧
    (did 0x301FF123456 true false blank).pixAt 1 = 0x123456 := by decide

/-- S4: in the cycle of the last transfer. -/
theorem test_wrPix_last : (did 0x30000FFFFFF true false (busyAt 16)).readStatus = 0xA ∧
    (did 0x30000FFFFFF true false (busyAt 16)).pixAt 0 = 0x140A1E := by decide

/-- H5. -/
theorem test_wrLedCount : (did 0x340000001FF true false blank).ledCount = 0xFF := by decide

/-- S6. -/
theorem test_wrLedCount_last : (did 0x34000000005 true false (busyAt 16)).ledCount = 1 ∧
    (did 0x34000000005 true false (busyAt 16)).readStatus = 0xA := by decide

/-- H8, and the byte offered in the next cycle (R106). -/
theorem test_wrCtrl_accepted : (did 0x34100000001 true false { oneLed 0 with done := true, irqEn := true }).readStatus = 0x1 ∧
    (did 0x34100000001 true false { oneLed 0 with done := true, irqEn := true }).irqEn = false ∧
    (did 0x34100000001 true false (oneLed 0)).outValid = true ∧ (did 0x34100000001 true false (oneLed 0)).outData = 0x00 := by decide

/-- H10: the count error, and `irq` in the next cycle; H13: while busy. -/
theorem test_wrCtrl_refused : (did 0x34100000003 true false blank).readStatus = 0x4 ∧ (did 0x34100000003 true false blank).irq = true ∧
    (did 0x34100000003 true false (busyAt 0)).readStatus = 0x9 ∧ (did 0x34100000003 true false (busyAt 0)).pos = 1 := by decide

/-- H16, H17. -/
theorem test_wrStatus : (did 0x34200000002 true false { blank with done := true, errOvr := true }).readStatus = 0x8 ∧
    (did 0x34200000001 true false { blank with errCount := true }).readStatus = 0x4 := by decide

/-- S2: the set beats the clear. -/
theorem test_wrStatus_last : (did 0x34200000002 true false (busyAt 16)).readStatus = 0x2 := by decide

/-- H20. -/
theorem test_wrRsvd43 : archOf (did 0x34300000001 false false (busyAt 3)) = archOf (busyAt 3) := by decide

/-- H20. -/
theorem test_wrRsvd44 : archOf (did 0x34500000001 false false (busyAt 3)) = archOf (busyAt 3) := by decide

/-- H20. -/
theorem test_wrRsvd48 : archOf (did 0x34a00000001 false false (busyAt 3)) = archOf (busyAt 3) := by decide

/-- H20. -/
theorem test_wrRsvd50 : archOf (did 0x35000000001 false false (busyAt 3)) = archOf (busyAt 3) := by decide

/-- H20. -/
theorem test_wrRsvd60 : archOf (did 0x36000000001 false false (busyAt 3)) = archOf (busyAt 3) := by decide

/-- H20. -/
theorem test_wrRsvd80 : archOf (did 0x38200000001 false false (busyAt 3)) = archOf (busyAt 3) := by decide

/-- L1.1. -/
theorem test_sym1 : nextIs (exec .sym1 blank) (fun t => t.symOut == 0b11100) = true := by decide

/-- L1.1. -/
theorem test_sym0 : nextIs (exec .sym0 blank) (fun t => t.symOut == 0b10000) = true := by decide

/-- Z1: reset in the middle of an encode. -/
theorem test_reset : (did 0 true true { busyAt 7 with errOvr := true, irqEn := true }).readStatus = 0 ∧
    (did 0 true true { busyAt 7 with errOvr := true, irqEn := true }).ledCount = 0 ∧
    (did 0 true true (busyAt 7)).pos = 0 ∧ (did 0 true true (busyAt 7)).emitted = [] := by decide

/-! ## Scripts (R81, R83) -/

theorem test_readLine : readLine "L1: wr PIX[5], 0x0A141E ; cell".toList
    = some ⟨some ['L', '1'], [.one (.wr (.pix 5) 0x0A141E)]⟩ ∧
    readLine "  rd @0x41".toList = some ⟨none, [.one (.rd (.raw 0x41))]⟩ ∧
    readLine "wait.idle".toList = some ⟨none, [.loop .idle]⟩ := by decide

theorem test_readLine_refuses : readLine "wr PIX[64], 0".toList = none ∧ readLine "rd ctrl".toList = none ∧
    readLine "wr CTRL, 0x100000000".toList = none := by decide

theorem test_readLine_pseudo : readLine "nop 2".toList = some ⟨none, [.one .nop, .one .nop]⟩ ∧
    readLine "ldrow 0x1, 0x2".toList
      = some ⟨none, [.one (.wr (.pix 0) 1), .one (.wr (.pix 1) 2), .one (.wr .ledCount 2)]⟩ ∧
    readLine "start.ie".toList = some ⟨none, [.one (.wr .ctrl 3)]⟩ := by decide

/-- The points of R81 the spec leaves open (notes/assumptions/19.md): both bases for `imm8` and `k`; no cycle without a
statement. -/
theorem test_readLine_bases : readLine "rd @66".toList = readLine "rd @0x42".toList ∧
    readLine "nop 0x2".toList = readLine "nop 2".toList ∧ readLine "L: ; only a label".toList = some ⟨some ['L'], []⟩ := by
  decide

/-- The two points of R83 the spec leaves open (notes/assumptions/19.md, notes/assumptions/20.md); a comma needs a cell. -/
theorem test_readLine_open : readLine "nop 0".toList = some ⟨none, []⟩ ∧
    readLine "ldrow".toList = some ⟨none, [.one (.wr .ledCount 0)]⟩ ∧ readLine "ldrow 1,".toList = none := by decide

/-- A polling loop ends in the cycle whose read data meets its condition (R83). -/
theorem test_poll : nextIs (runScript [true] [.loop .idle] (busyAt 16)) (fun t => t.ports.busRdata == 1) = true ∧
    nextIs (runScript [true, true, true] [.loop .idle, .one (.wr .ledCount 3)] (busyAt 16))
      (fun t => t.ledCount == 3 && t.done) = true := by decide

/-! ## Witnesses: the hypotheses of each obligation that has some, clause by clause -/

theorem witness_StepRunsDecodedInstruction : 
    (cyc 0x24100000000 true false blank).nextInput = .cycle 0x24100000000 true false ∧
    decode (.txn 0x24100000000) = .ok .rdCtrl ∧
    ({ blank with inputs := [.expand 0b11100] } : State).nextInput = .expand 0b11100 ∧
    decode (.sym 0b11100) = .ok .sym1 ∧ (cyc 0 true true blank).inputs = .cycle 0 true true :: [] ∧ blank.inputs = [] := by decide

theorem witness_DecodeOfEncodeIsIdentity : (Instr.rdRsvd44 0x44).WellFormed ∧ (Instr.wrRsvd80 0xFF 0xFFFFFFFF).WellFormed ∧
    (Instr.rdPix 0).WellFormed ∧ (Instr.wrPix 63 0xFFFFFFFF).WellFormed ∧ Instr.sym0.WellFormed := by decide

theorem witness_EncodeOfDecodeKeepsMeaningfulBits : 
    ((0x3FFFFFFFFFF : Txn).getLsbD 41 = true ∧ (0x3FFFFFFFFFF : Txn).getLsbD 40 = true) ∧
    ((0x2FFFFFFFFFF : Txn).getLsbD 41 = true ∧ (0x2FFFFFFFFFF : Txn).getLsbD 40 = false) ∧
    (0x1FFFFFFFFFF : Txn).getLsbD 41 = false ∧ decode (.sym 0b10000) = .ok .sym0 := by decide

/-- Each clause at the ends of its address range. -/
theorem witness_EachTxnMatchesExactlyItsRow : (0x1FFFFFFFFFF : Txn).getLsbD 41 = false ∧
    ((0x20000000000 : Txn).getLsbD 41 = true ∧ (0x20000000000 : Txn).getLsbD 40 = false ∧ txnAddr 0x20000000000 = 0) ∧
    ((0x23F00000000 : Txn).getLsbD 41 = true ∧ (0x23F00000000 : Txn).getLsbD 40 = false ∧ txnAddr 0x23F00000000 = 63) ∧
    ((0x24000000000 : Txn).getLsbD 41 = true ∧ (0x24000000000 : Txn).getLsbD 40 = false ∧ txnAddr 0x24000000000 = 64) ∧
    ((0x24100000000 : Txn).getLsbD 41 = true ∧ (0x24100000000 : Txn).getLsbD 40 = false ∧ txnAddr 0x24100000000 = 65) ∧
    ((0x24200000000 : Txn).getLsbD 41 = true ∧ (0x24200000000 : Txn).getLsbD 40 = false ∧ txnAddr 0x24200000000 = 66) ∧
    ((0x24300000000 : Txn).getLsbD 41 = true ∧ (0x24300000000 : Txn).getLsbD 40 = false ∧ txnAddr 0x24300000000 = 67) ∧
    ((0x2FF00000000 : Txn).getLsbD 41 = true ∧ (0x2FF00000000 : Txn).getLsbD 40 = false ∧ txnAddr 0x2FF00000000 = 255) ∧
    ((0x30000000000 : Txn).getLsbD 41 = true ∧ (0x30000000000 : Txn).getLsbD 40 = true ∧ txnAddr 0x30000000000 = 0) ∧
    ((0x33F00000000 : Txn).getLsbD 41 = true ∧ (0x33F00000000 : Txn).getLsbD 40 = true ∧ txnAddr 0x33F00000000 = 63) ∧
    ((0x34000000000 : Txn).getLsbD 41 = true ∧ (0x34000000000 : Txn).getLsbD 40 = true ∧ txnAddr 0x34000000000 = 64) ∧
    ((0x34100000000 : Txn).getLsbD 41 = true ∧ (0x34100000000 : Txn).getLsbD 40 = true ∧ txnAddr 0x34100000000 = 65) ∧
    ((0x34200000000 : Txn).getLsbD 41 = true ∧ (0x34200000000 : Txn).getLsbD 40 = true ∧ txnAddr 0x34200000000 = 66) ∧
    ((0x34300000000 : Txn).getLsbD 41 = true ∧ (0x34300000000 : Txn).getLsbD 40 = true ∧ txnAddr 0x34300000000 = 67) ∧
    ((0x3FF00000000 : Txn).getLsbD 41 = true ∧ (0x3FF00000000 : Txn).getLsbD 40 = true ∧ txnAddr 0x3FF00000000 = 255)
    ∧ txnRows[0]?.isSome = true ∧ txnRows[20]?.isSome = true := by decide

/-- `Encoded` at both ends of each row's range. -/
theorem witness_RdReservedReadsZero : 
    [(0x24300000000 : Txn), 0x24400000000, 0x24700000000, 0x24800000000, 0x24F00000000, 0x25000000000,
      0x25F00000000, 0x26000000000, 0x27F00000000, 0x28000000000, 0x2FF00000000].map txnAddr
      = [0x43, 0x44, 0x47, 0x48, 0x4F, 0x50, 0x5F, 0x60, 0x7F, 0x80, 0xFF] ∧
    (0x24300000000 : Txn).getLsbD 41 = true ∧ (0x2FF00000000 : Txn).getLsbD 40 = false := by decide

/-- `Encoded` at both ends of each row's range. -/
theorem witness_WrReservedChangesNothing : 
    [(0x34300000000 : Txn), 0x34400000000, 0x34700000000, 0x34800000000, 0x34F00000000, 0x35000000000,
      0x35F00000000, 0x36000000000, 0x37F00000000, 0x38000000000, 0x3FF00000000].map txnAddr
      = [0x43, 0x44, 0x47, 0x48, 0x4F, 0x50, 0x5F, 0x60, 0x7F, 0x80, 0xFF] ∧
    (0x34300000000 : Txn).getLsbD 41 = true ∧ (0x3FF00000000 : Txn).getLsbD 40 = true := by decide

theorem witness_NopOnlyStepsTheSequencer : (0x1FFFFFFFFFF : Txn).getLsbD 41 = false := by decide

theorem witness_RdPixReadsThePixel : ((0x20000000000 : Txn).getLsbD 41 = true ∧ (0x20000000000 : Txn).getLsbD 40 = false ∧ txnAddr 0x20000000000 = 0) ∧
    ((0x23F00000000 : Txn).getLsbD 41 = true ∧ (0x23F00000000 : Txn).getLsbD 40 = false ∧ txnAddr 0x23F00000000 = 63) := by decide

theorem witness_RdLedCountReadsTheCount :
    ((0x24000000000 : Txn).getLsbD 41 = true ∧
    (0x24000000000 : Txn).getLsbD 40 = false ∧ txnAddr 0x24000000000 = 64) := by decide

theorem witness_RdCtrlReadsIrqEnable :
    ((0x24100000000 : Txn).getLsbD 41 = true ∧
    (0x24100000000 : Txn).getLsbD 40 = false ∧ txnAddr 0x24100000000 = 65) := by decide

theorem witness_WrPixStoresOrIsDropped : ((0x30000000000 : Txn).getLsbD 41 = true ∧ (0x30000000000 : Txn).getLsbD 40 = true ∧ txnAddr 0x30000000000 = 0) ∧
    ((0x33F00000000 : Txn).getLsbD 41 = true ∧ (0x33F00000000 : Txn).getLsbD 40 = true ∧ txnAddr 0x33F00000000 = 63) := by decide

theorem witness_WrLedCountStoresOrIsDropped :
    ((0x34000000000 : Txn).getLsbD 41 = true ∧
    (0x34000000000 : Txn).getLsbD 40 = true ∧ txnAddr 0x34000000000 = 64) := by decide

theorem witness_WrStatusClearsByOnes :
    ((0x34200000000 : Txn).getLsbD 41 = true ∧
    (0x34200000000 : Txn).getLsbD 40 = true ∧ txnAddr 0x34200000000 = 66) := by decide

/-- The encoding; a good state in the cycle of its last transfer. -/
theorem witness_RdStatusReadsTheFlags : 
    ((0x24200000000 : Txn).getLsbD 41 = true ∧ (0x24200000000 : Txn).getLsbD 40 = false ∧ txnAddr 0x24200000000 = 66) ∧
    GoodState { busyAt 16 with outReady := true } ∧ lastTransfer { busyAt 16 with outReady := true } = true := by
  unfold GoodState; decide

theorem witness_EveryCycleCompletes :
    (cyc 0x3FFFFFFFFFF false true blank).nextInput = .cycle 0x3FFFFFFFFFF false true := by decide

theorem witness_OtherPatternsAreNoSymbol : 
    ({ blank with inputs := [.expand 0b11101] } : State).nextInput = .expand 0b11101 ∧
    (0b11101 : Byte) ≠ 0b11100 ∧ (0b11101 : Byte) ≠ 0b10000 := by decide

/-- The encoding, and the four cases, the counts at both ends of their ranges. -/
theorem witness_WrCtrlStartsOrReports : 
    ((0x34100000000 : Txn).getLsbD 41 = true ∧ (0x34100000000 : Txn).getLsbD 40 = true ∧ txnAddr 0x34100000000 = 0x41) ∧
    (0xFFFFFFFE : Word).getLsbD 0 = false ∧
    ((0x1 : Word).getLsbD 0 = true ∧ (busyAt 0).busy = true) ∧
    ((0x3 : Word).getLsbD 0 = true ∧ (oneLed 0).busy = false ∧ 1 ≤ (oneLed 0).ledCount.toNat ∧
      (oneLed 0).ledCount.toNat ≤ 64) ∧
    (1 ≤ ({ blank with ledCount := 64 } : State).ledCount.toNat ∧ ({ blank with ledCount := 64 } : State).ledCount.toNat ≤ 64) ∧
    (blank.busy = false ∧ ¬(1 ≤ blank.ledCount.toNat ∧ blank.ledCount.toNat ≤ 64)) ∧
    ¬(1 ≤ ({ blank with ledCount := 65 } : State).ledCount.toNat ∧ ({ blank with ledCount := 65 } : State).ledCount.toNat ≤ 64) := by decide

theorem witness_StepRefinesTheCycleEquations : 
    (cyc 0x34100000001 true false (busyAt 16)).nextInput = .cycle 0x34100000001 true false ∧
    (cyc 0x34100000001 true true (busyAt 16)).nextInput = .cycle 0x34100000001 true true := by decide

theorem witness_PortsAreFunctionsOfTheHeldState : 
    ∃ t, (cyc 0 true false (busyAt 16)).nextInput = .cycle 0 true false ∧ step (cyc 0 true false (busyAt 16)) = .next t := ⟨_, by decide, step_after (by decide)⟩

/-- No read, and a read at the ends of each range of addresses. -/
theorem witness_BusReadFollowsTheAddressMap : 
    (¬((0x30000000001 : Txn).getLsbD 41 = true ∧ (0x30000000001 : Txn).getLsbD 40 = false)) ∧
    (¬((0x1FFFFFFFFFF : Txn).getLsbD 41 = true ∧ (0x1FFFFFFFFFF : Txn).getLsbD 40 = false)) ∧
    (∀ w ∈ [(0x20000000000 : Txn), 0x23F00000000, 0x24000000000, 0x24100000000, 0x24200000000, 0x24300000000,
      0x2FF00000000], (w.getLsbD 41 = true ∧ w.getLsbD 40 = false) ∧
      nextIs (step (cyc w true false (busyAt 3))) (fun _ => true) = true ∧
      (cyc w true false (busyAt 3)).nextInput = .cycle w true false) ∧
    [(0x20000000000 : Txn), 0x23F00000000, 0x24000000000, 0x24100000000, 0x24200000000, 0x24300000000,
      0x2FF00000000].map txnAddr = [0, 63, 0x40, 0x41, 0x42, 0x43, 0xFF] := by
  refine ⟨by decide, by decide, ?_, by decide⟩
  intro w hw
  simp only [List.mem_cons, List.not_mem_nil, or_false] at hw
  rcases hw with rfl | rfl | rfl | rfl | rfl | rfl | rfl <;> exact ⟨by decide, by decide, rfl⟩

theorem witness_ReadsHaveNoSideEffect : ∃ t u, 1 ≤ (Instr.rdPix 0).rowIndex ∧ (Instr.rdRsvd80 0).rowIndex ≤ 10 ∧
    exec (.rdPix 0) (busyAt 3) = .next t ∧ exec .nop (busyAt 3) = .next u := ⟨_, _, by decide, by decide, rfl, rfl⟩

theorem witness_ResetEdgeReachesResetState :
    (cyc 0x30000123456 true true (busyAt 7)).nextInput = .cycle 0x30000123456 true true := by decide

theorem witness_ResetEdgeDrawsEveryPixel :
    (cyc 0x30000123456 true true (busyAt 7)).inputs = .cycle 0x30000123456 true true :: [] := by decide

/-- In the middle of an encode, and at rest. -/
theorem witness_EveryStepKeepsTheInvariant : 
    (GoodState (cyc 0 true false (busyAt 16)) ∧ ∃ t, step (cyc 0 true false (busyAt 16)) = .next t) ∧
    (GoodState (cyc 0x34100000001 true false (oneLed 0)) ∧ ∃ t, step (cyc 0x34100000001 true false (oneLed 0)) = .next t) := 
  ⟨⟨by unfold GoodState; decide, _, step_after (by decide)⟩, by unfold GoodState; decide, _, step_after (by decide)⟩

theorem witness_BusyChangesOnlyAsStated : 
    (∃ t, step (cyc 0x34100000001 true false (oneLed 0)) = .next t ∧ (oneLed 0).busy = false ∧ t.busy = true) ∧
    (∃ t, step (cyc 0 true false (busyAt 16)) = .next t ∧ (busyAt 16).busy = true ∧ t.busy = false) ∧
    (∃ t, step { busyAt 3 with inputs := [.expand 0b11100] } = .next t) := 
  ⟨⟨_, step_after (by decide), by decide, by decide⟩, ⟨_, step_after (by decide), by decide, by decide⟩,
    _, step_after (by decide)⟩

theorem witness_HostRegistersChangeOnlyByTheirWrite : 
    (∃ t, step (cyc 0x30000ABCDEF true false blank) = .next t ∧ t.pix[0] ≠ blank.pix[0]) ∧
    (∃ t, step (cyc 0x34000000040 true false blank) = .next t ∧ t.ledCount ≠ blank.ledCount) ∧
    (∃ t, step (cyc 0x34100000002 true false (busyAt 3)) = .next t ∧ t.irqEn ≠ (busyAt 3).irqEn) := 
  ⟨⟨_, step_after (by decide), by decide⟩, ⟨_, step_after (by decide), by decide⟩, _, step_after (by decide), by decide⟩

theorem witness_GammaIsConstantAndHidden : ∃ t u,
    (cyc 0x20000000000 true false (busyAt 3)).nextInput = .cycle 0x20000000000 true false ∧
    step (cyc 0x20000000000 true false (busyAt 3)) = .next t ∧
    step { cyc 0x20000000000 true false (busyAt 3) with gamma := Vector.replicate 256 7 } = .next u := 
  ⟨_, _, by decide, step_after (by decide), step_after (by decide)⟩

/-- An illegal START at each end of the illegal counts, and a START that is legal. -/
theorem witness_CountErrorIsRaisedExactlyByIllegalStart : 
    (∀ n ∈ [(0 : BitVec 8), 65, 255], isStart 0x34100000003 = true ∧
      (n.toNat = 0 ∨ 64 < n.toNat) ∧
      (did 0x34100000003 true false { blank with ledCount := n }).errCount = true ∧
      nextIs (step (cyc 0x34100000003 true false { blank with ledCount := n })) (fun _ => true) = true) ∧
    (did 0x34100000003 true false (oneLed 0)).errCount = false := by decide

/-- Each of the three writes while busy. -/
theorem witness_OverlapErrorIsRaisedExactlyByBusyWrites : 
    (∃ t, step (cyc 0x33F00FFFFFF true false (busyAt 3)) = .next t ∧ (busyAt 3).errOvr = false ∧ t.errOvr = true) ∧
    (∃ t, step (cyc 0x34000000005 true false (busyAt 3)) = .next t ∧ writesTo 0x34000000005 0x40 = true ∧ t.errOvr = true) ∧
    (∃ t, step (cyc 0x34100000001 true false (busyAt 3)) = .next t ∧ isStart 0x34100000001 = true ∧ t.errOvr = true) := 
  ⟨⟨_, step_after (by decide), by decide, by decide⟩, ⟨_, step_after (by decide), by decide, by decide⟩,
    _, step_after (by decide), by decide, by decide⟩

theorem witness_FlagsAreSticky : 
    (∃ t, step (cyc 0x3420000000E true false { blank with done := true, errCount := true, errOvr := true }) = .next t ∧
      t.done = false ∧ t.errCount = false ∧ t.errOvr = false) ∧
    (∃ t, step (cyc 0x34100000001 true false { oneLed 0 with done := true }) = .next t ∧ t.done = false) := 
  ⟨⟨_, step_after (by decide), by decide, by decide, by decide⟩, _, step_after (by decide), by decide⟩

theorem witness_SimultaneousEventsCombine : 
    (∃ t, step (cyc 0x34100000001 true false (busyAt 3)) = .next t ∧ isStart 0x34100000001 = true ∧
      (busyAt 3).errCount = false ∧ (busyAt 3).errOvr = false) ∧
    (∃ t, step (cyc 0x30000FFFFFF true false (busyAt 16)) = .next t ∧ writesPix 0x30000FFFFFF = true ∧
      (busyAt 16).pos.toNat = 15 * (busyAt 16).ledCount.toNat + 1) := 
  ⟨⟨_, step_after (by decide), by decide, by decide, by decide⟩, _, step_after (by decide), by decide, by decide⟩

theorem witness_InterruptFallsOnlyAsStated : 
    ∃ t, step (cyc 0x34200000004 true false { blank with irqEn := true, errCount := true }) = .next t ∧
      (portsR29 0 (cyc 0x34200000004 true false { blank with irqEn := true, errCount := true })).irq = true ∧
      (portsR29 0 t).irq = false := ⟨_, step_after (by decide), by decide, by decide⟩

theorem witness_OfferedByteIsHeldDuringAStall : 
    ∃ t, (cyc 0x30000FFFFFF false false (busyAt 3)).nextInput = .cycle 0x30000FFFFFF false false ∧
      (busyAt 3).busy = true ∧ step (cyc 0x30000FFFFFF false false (busyAt 3)) = .next t := 
  ⟨_, by decide, by decide, step_after (by decide)⟩

theorem witness_QuiescentBlockRests : 
    ∃ t, (cyc 0x24200000000 true false (oneLed 0)).nextInput = .cycle 0x24200000000 true false ∧
      (oneLed 0).busy = false ∧ ((0x24200000000 : Txn).getLsbD 41 && (0x24200000000 : Txn).getLsbD 40) = false ∧
      step (cyc 0x24200000000 true false (oneLed 0)) = .next t := 
  ⟨_, by decide, by decide, by decide, step_after (by decide)⟩

theorem witness_ChannelCodeIsTheSymbolsOfItsBits :
    (0 : Nat) < 8 ∧ (7 : Nat) < 8 ∧ expand 0x00 = expand 0x00 := by decide

/-- Rows of one LED and of 64, their first and last bytes. -/
theorem witness_RowByteSelectsLedChannelAndByte : 
    (1 ≤ 1 ∧ 1 ≤ 64 ∧ (0 : Nat) < 1 ∧ 15 * 0 + 5 * 0 + 0 + 1 = 1) ∧
    (1 ≤ 64 ∧ 64 ≤ 64 ∧ (63 : Nat) < 64 ∧ (4 : Nat) < 5 ∧ 15 * 63 + 5 * 2 + 4 + 1 = 960) := by decide

theorem witness_RowFrameIsTheRowBytes : 1 ≤ 64 ∧ 64 ≤ 64 ∧ 961 ≤ 15 * 64 + 1 ∧ 1 ≤ 960 ∧ 960 ≤ 15 * 64 := by decide

/-- Stores that differ outside the row. -/
theorem witness_FrameDependsOnTheRowOnly : 
    (∀ (i : Nat) (h : i < 64), i < 1 → (oneLed 0x140A1E).pix[i] = (setPix (oneLed 0x140A1E).pix 1 0xFFFFFF)[i]) ∧
    (oneLed 0x140A1E).pix ≠ setPix (oneLed 0x140A1E).pix 1 0xFFFFFF := by
  have e : (oneLed 0x140A1E).pix[0] = (setPix (oneLed 0x140A1E).pix 1 0xFFFFFF)[0] := by decide
  refine ⟨fun i _ h1 => ?_, by decide⟩
  have h0 : i = 0 := by omega
  subst h0
  exact e

/-- A START and 17 ready cycles with the host at work and one stall: a whole frame of one LED. -/
def started : State :=
  { oneLed 0x140A1E with
    inputs := .cycle 0x34100000001 true false :: script ((0x30000FFFFFF, false) :: List.replicate 17 (0x24200000000, true)) }

/-- The same with the frame's last byte left to one more cycle. -/
def startedToLast : State :=
  { oneLed 0x140A1E with
    inputs := .cycle 0x34100000001 true false :: script (List.replicate 16 (0x24200000000, true) ++ [(0x34200000002, true)]) }

/-- Both bounds: a whole frame, and only its first byte. -/
theorem witness_EmittedBytesAreEncodeRow : 
    started.busy = false ∧ isStart 0x34100000001 = true ∧ 1 ≤ started.ledCount.toNat ∧ started.ledCount.toNat ≤ 64 ∧
    started.inputs = .cycle 0x34100000001 true false ::
      script ((0x30000FFFFFF, false) :: List.replicate 17 (0x24200000000, true)) ++ [] ∧
    readyCount ((0x30000FFFFFF, false) :: List.replicate 17 (0x24200000000, true)) = 15 * started.ledCount.toNat + 2 ∧
    readyCount [(0x30000FFFFFF, false), (0x24200000000, true)] < 15 * started.ledCount.toNat + 2 := by decide

theorem witness_EncodeEndsAtTheLastAcceptance : 
    startedToLast.busy = false ∧ isStart 0x34100000001 = true ∧ 1 ≤ startedToLast.ledCount.toNat ∧
    startedToLast.ledCount.toNat ≤ 64 ∧
    startedToLast.inputs = .cycle 0x34100000001 true false ::
      script (List.replicate 16 (0x24200000000, true) ++ [(0x34200000002, true)]) ++ [] ∧
    readyCount (List.replicate 16 (0x24200000000, true)) = 15 * startedToLast.ledCount.toNat + 1 := by decide

/-- Two blocks with the same row of one LED, the second with another second cell, its interrupt enabled, a stall and a
dropped write on the way. -/
def left : State := { busyAt 0 with inputs := script [(0, true), (0, true)] }

def right : State :=
  { busyAt 0 with
    pix := setPix (busyAt 0).pix 1 0xFFFFFF
    irqEn := true
    inputs := script [(0, true), (0x30000FFFFFF, false), (0x24200000000, true)] }

theorem left_runs : ∃ t, core.run 2 left = .next t :=
  ⟨_, rfl⟩

theorem right_runs : ∃ t, core.run 3 right = .next t :=
  ⟨_, rfl⟩

theorem witness_StallsAndHostTrafficDoNotChangeTheBytes : 
    left.busy = true ∧ right.busy = true ∧ left.pos = 0 ∧ right.pos = 0 ∧ left.emitted = right.emitted ∧
    left.gamma = right.gamma ∧ left.ledCount = right.ledCount ∧ 1 ≤ left.ledCount.toNat ∧ left.ledCount.toNat ≤ 64 ∧
    (∀ (i : Nat) (h : i < 64), i < left.ledCount.toNat → left.pix[i] = right.pix[i]) ∧
    left.inputs = script [(0, true), (0, true)] ++ [] ∧
    right.inputs = script [(0, true), (0x30000FFFFFF, false), (0x24200000000, true)] ++ [] ∧
    readyCount [(0, true), (0, true)] = readyCount [(0, true), (0x30000FFFFFF, false), (0x24200000000, true)] ∧
    (∃ t, core.run 2 left = .next t) ∧ (∃ t, core.run 3 right = .next t) := by
  have e : left.pix[0] = right.pix[0] := by decide
  refine ⟨by decide, by decide, by decide, by decide, by decide, rfl, rfl, by decide, by decide, ?_,
    by decide, by decide, by decide, left_runs, right_runs⟩
  intro i _ h1
  have h0 : i = 0 := by
    have e : left.ledCount.toNat = 1 := by decide
    omega
  subst h0
  exact e

theorem witness_PseudoInstructionsExpand : [(0 : Word), 1].length ≤ 64 ∧ ([] : List Word).length ≤ 64 ∧
    (List.replicate 64 (0 : Word)).length ≤ 64 ∧
    nextIs (hostCycle (Stmt.rd .status).assemble true (busyAt 3)) (fun _ => true) = true := by decide

theorem witness_LineDurationsFollowTheFrame : 1 ≤ 1 ∧ 64 ≤ 64 ∧ 0 < symbolBitPeriods ∧ 4 < symbolBitPeriods := by decide

end Sys2Proof.Tests
end

section
/-! PROOFS. The family of spec/10_state.md: the ports, `BUSY` and `GAMMA` over one step. -/

namespace Sys2Proof.Proofs

open Sys2Proof.Machine Sys2Proof.Safety Sys2Proof.Laws

/-! ## What a cycle shows on the ports (R29, R100) -/

/-- With or without reset, the ports of a cycle show the state before the edge and the word's read data. -/
theorem cycle_ports {s t : State} {w : Txn} {rdy rst : Bool} (hn : s.nextInput = .cycle w rdy rst)
    (ht : step s = .next t) : t.ports = s.portsNow (s.rdata w) := by
  cases rst with
  | true =>
    cases (step_reset s w rdy hn).symm.trans ht
    simp only [resetEdge_ports, portsNow_setReady, portsNow_popInput]
  | false =>
    cases (step_cycle s w rdy hn).symm.trans ht
    simp only [clockEdge_ports, portsNow_setReady, portsNow_popInput]

theorem cycle_busRdata {s t : State} {w : Txn} {rdy rst : Bool} (hn : s.nextInput = .cycle w rdy rst)
    (ht : step s = .next t) : t.ports.busRdata = s.rdata w :=
  congrArg OutPorts.busRdata (cycle_ports hn ht)

/-- No read of the bus depends on the correction table (R27). -/
theorem rdata_withGamma (s : State) (g : Gamma) (w : Txn) : { s with gamma := g }.rdata w = s.rdata w := rfl

/-- Settles O21: both kinds of edge show the ports of the state before it, which are R29's. -/
theorem portsAreFunctionsOfTheHeldState : Obligations.PortsAreFunctionsOfTheHeldState := by
  intro s t w rdy rst hn ht
  rw [cycle_busRdata hn ht, ← portsNow_eq]
  exact cycle_ports hn ht

/-! ## The correction table over a step (R27) -/

theorem step_gamma {s t : State} (h : step s = .next t) : t.gamma = s.gamma := by
  obtain ⟨w, rdy, -, rfl⟩ | ⟨w, rdy, -, rfl⟩ | ⟨b, v, -, rfl⟩ := step_cases h
  · rw [resetEdge_gamma, setReady_gamma, popInput_gamma]
  · rw [clockEdge_gamma, setReady_gamma, popInput_gamma]
  · rw [symOp_gamma, popInput_gamma]

/-- Settles O31: every shape of a step keeps the table, and the read data of a cycle does not depend on it. -/
theorem gammaIsConstantAndHidden : Obligations.GammaIsConstantAndHidden := by
  refine ⟨fun s t h => step_gamma h, fun s t u g w rdy rst hn ht hu => ?_⟩
  have hn' : { s with gamma := g }.nextInput = .cycle w rdy rst := hn
  calc u.ports.busRdata
      = { s with gamma := g }.rdata w := cycle_busRdata hn' hu
    _ = s.rdata w := rdata_withGamma s g w
    _ = t.ports.busRdata := (cycle_busRdata hn ht).symm

/-! ## `BUSY` over a cycle (R25) -/

/-- `BUSY'` without reset: an idle block takes a legal START, a busy one goes on until its last transfer (R174). -/
theorem nextBusy_requestOf (w : Txn) (s : State) : nextBusy (requestOf w s) s =
    if s.busy = true then !lastTransfer s else isStart w && legalCount s.ledCount := by
  simp only [nextBusy, requestOf_eq, countLegal_eq, seqDone_eq]
  cases hb : s.busy with
  | true => by_cases hl : lastTransfer s = true <;> simp [hl]
  | false =>
    have hl : lastTransfer s = false := by simp [lastTransfer, hb]
    simp [hl]

theorem busy_after_reset {s t : State} {w : Txn} {rdy : Bool} (hn : s.nextInput = .cycle w rdy true)
    (ht : step s = .next t) : t.busy = false := by
  cases (step_reset s w rdy hn).symm.trans ht
  exact resetEdge_busy _ _

theorem busy_after_cycle {s t : State} {w : Txn} {rdy : Bool} (hn : s.nextInput = .cycle w rdy false)
    (ht : step s = .next t) : t.busy =
    if s.busy = true then !(rdy && s.pos.toNat == 15 * s.ledCount.toNat + 1)
    else isStart w && legalCount s.ledCount := by
  cases (step_cycle s w rdy hn).symm.trans ht
  rw [clockEdge_busy, nextBusy_requestOf]
  cases hb : s.busy <;> simp [lastTransfer, hb]

/-- Settles O29: by the edge, reset or not, and by `BUSY` before it; a line symbol writes `symOut` only. -/
theorem busyChangesOnlyAsStated : Obligations.BusyChangesOnlyAsStated := by
  refine ⟨fun s t w rdy rst hn ht => ?_, fun s t b hn ht => ?_⟩
  · cases rst with
    | true => simp [busy_after_reset hn ht]
    | false =>
      have hbusy := busy_after_cycle hn ht
      exact ⟨fun hb => by simp [hbusy, hb], fun hb => by simp [hbusy, hb]⟩
  · obtain ⟨w, rdy, hc, -⟩ | ⟨w, rdy, hc, -⟩ | ⟨_, v, -, rfl⟩ := step_cases ht
    · exact absurd (hn.symm.trans hc) nofun
    · exact absurd (hn.symm.trans hc) nofun
    · rw [symOp_busy, popInput_busy]

end Sys2Proof.Proofs
end

section
/-! PROOFS. The family of spec/30_encoding.md: the decode table, the opcode rows, and the words of script statements. -/

namespace Sys2Proof.Proofs

open Sys2Proof.Machine Sys2Proof.Safety Sys2Proof.Laws

/-! ## The lines of the decode table (R72) -/

/-- The pixel index `ADDR[5:0]`, on the word's own bits. -/
theorem addr_index (w : Txn) : w.addr.extractLsb' 0 6 = w.extractLsb' 32 6 := by
  apply BitVec.eq_of_getLsbD_eq
  intro i hi
  have hi8 : i < 8 := by omega
  simp [Txn.addr, hi, hi8]

theorem decodeRead_pixel (a : BitVec 8) (h : a.toNat < 0x40) : decodeRead a = .rdPix (a.extractLsb' 0 6) :=
  if_pos ((top_bits_zero_iff a).mpr h)

theorem decodeRead_ledCount (a : BitVec 8) (h : a.toNat = 0x40) : decodeRead a = .rdLedCount := by
  rw [BitVec.eq_of_toNat_eq (y := 0x40#8) h]; rfl

theorem decodeRead_ctrl (a : BitVec 8) (h : a.toNat = 0x41) : decodeRead a = .rdCtrl := by
  rw [BitVec.eq_of_toNat_eq (y := 0x41#8) h]; rfl

theorem decodeRead_status (a : BitVec 8) (h : a.toNat = 0x42) : decodeRead a = .rdStatus := by
  rw [BitVec.eq_of_toNat_eq (y := 0x42#8) h]; rfl

/-- From `0x43` on, a read decodes to one of the six reserved rows. -/
theorem decodeRead_reserved (a : BitVec 8) (h : 0x43 ≤ a.toNat) :
    decodeRead a ∈ [Instr.rdRsvd43, .rdRsvd44 a, .rdRsvd48 a, .rdRsvd50 a, .rdRsvd60 a, .rdRsvd80 a] := by
  rcases decodeRead_cases a with ⟨ha, -⟩ | ⟨rfl, -⟩ | ⟨rfl, -⟩ | ⟨rfl, -⟩ | ⟨-, e⟩ | ⟨-, e⟩ | ⟨-, e⟩ | ⟨-, e⟩ |
    ⟨-, e⟩ | ⟨-, e⟩
  · exact absurd ha (by omega)
  · exact absurd h (by decide)
  · exact absurd h (by decide)
  · exact absurd h (by decide)
  all_goals simp [e]

/-- A write decodes as the read at its address does, with the data (R52). -/
theorem decodeTxn_asWrite {w : Txn} {i : Instr} (he : w.en = true) (hw : w.we = true) (h : decodeRead w.addr = i) :
    decodeTxn w = asWrite w.wdata i := by
  rw [decodeTxn_write w he hw, decodeWrite_eq, h]

/-! ## The rows of the opcode table -/

/-- Every read is a word of the row of its operation, whatever its `WDATA`. -/
theorem decodeRead_ownRow (a : BitVec 8) : ∃ r, txnRows[(decodeRead a).rowIndex]? = some r ∧
    ∀ v, r.accepts (Txn.mk true false a v) = true := by
  rcases decodeRead_cases a with ⟨h, e⟩ | ⟨h, e⟩ | ⟨h, e⟩ | ⟨h, e⟩ | ⟨h, e⟩ | ⟨h, e⟩ | ⟨h, e⟩ | ⟨h, e⟩ | ⟨h, e⟩ | ⟨h, e⟩
  all_goals
    rw [e]
    refine ⟨_, rfl, fun v => RowMatch.accepts_mk _ _ _ _ _ rfl rfl ?_⟩
    clear e v
    revert a; decide

/-- Every write is a word of the row of its operation. -/
theorem decodeWrite_ownRow (a : BitVec 8) (v : Word) : ∃ r, txnRows[(decodeWrite a v).rowIndex]? = some r ∧
    r.accepts (Txn.mk true true a v) = true := by
  rcases decodeWrite_cases a v with ⟨h, e⟩ | ⟨h, e⟩ | ⟨h, e⟩ | ⟨h, e⟩ | ⟨h, e⟩ | ⟨h, e⟩ | ⟨h, e⟩ | ⟨h, e⟩ | ⟨h, e⟩ | ⟨h, e⟩
  all_goals
    rw [e]
    refine ⟨_, rfl, RowMatch.accepts_mk _ _ _ _ _ rfl rfl ?_⟩
    clear e v
    revert a; decide

/-- Every word is a word of the row of the operation it decodes to. -/
theorem decodeTxn_ownRow (w : Txn) : ∃ r, txnRows[(decodeTxn w).rowIndex]? = some r ∧ r.accepts w = true := by
  rw [← mk_fields w]
  generalize w.addr = a, w.wdata = v
  cases he : w.en with
  | false =>
    rw [decodeTxn_idle _ (en_mk ..)]
    refine ⟨_, rfl, RowMatch.accepts_mk _ _ _ _ _ rfl rfl ?_⟩
    generalize w.we = b
    revert a b; decide
  | true =>
    cases hw : w.we with
    | false =>
      obtain ⟨r, hr, hacc⟩ := decodeRead_ownRow a
      rw [decodeTxn_read _ (en_mk ..) (we_mk ..), addr_mk]
      exact ⟨r, hr, hacc v⟩
    | true =>
      rw [decodeTxn_write _ (en_mk ..) (we_mk ..), addr_mk, wdata_mk]
      exact decodeWrite_ownRow a v

/-- The patterns differ in a bit that both masks test, so that the rows share no word. -/
def Row.Conflicts (r s : Row) : Prop := r.pattern &&& s.mask ≠ s.pattern &&& r.mask

theorem Row.Conflicts.not_both {r s : Row} (h : Row.Conflicts r s) (w : Txn)
    (hr : w &&& r.mask = r.pattern) (hs : w &&& s.mask = s.pattern) : False :=
  h <| calc
    r.pattern &&& s.mask = w &&& r.mask &&& s.mask := by rw [hr]
    _ = w &&& s.mask &&& r.mask := by rw [BitVec.and_assoc, BitVec.and_comm r.mask, BitVec.and_assoc]
    _ = s.pattern &&& r.mask := by rw [hs]

theorem txnRows_pairwise_conflict : txnRows.Pairwise Row.Conflicts := by
  unfold Row.Conflicts
  decide

/-- No word is of two rows. -/
theorem row_unique {w : Txn} {i j : Nat} {r s : Row} (hi : txnRows[i]? = some r) (hj : txnRows[j]? = some s)
    (hr : w &&& r.mask = r.pattern) (hs : w &&& s.mask = s.pattern) : i = j := by
  obtain ⟨hi', rfl⟩ := List.getElem?_eq_some_iff.mp hi
  obtain ⟨hj', rfl⟩ := List.getElem?_eq_some_iff.mp hj
  have hc := List.pairwise_iff_getElem.mp txnRows_pairwise_conflict
  rcases lt_trichotomy i j with h | h | h
  · exact ((hc i j hi' hj' h).not_both w hr hs).elim
  · exact h
  · exact ((hc j i hj' hi' h).not_both w hs hr).elim

/-- Settles O5: a write decodes as the read at its address does; a word is of its operation's row, and of no other, since
any two rows conflict. -/
theorem eachTxnMatchesExactlyItsRow : Obligations.EachTxnMatchesExactlyItsRow := by
  refine ⟨decodeTxn_idle, fun w he hw => ?_, fun w he hw => ?_, fun w => ?_, fun w k r hr => ?_⟩
  · rw [decodeTxn_read w he hw, ← addr_index]
    exact ⟨decodeRead_pixel w.addr, decodeRead_ledCount w.addr, decodeRead_ctrl w.addr, decodeRead_status w.addr,
      decodeRead_reserved w.addr⟩
  · have hwr {i : Instr} := decodeTxn_asWrite (i := i) he hw
    rw [← addr_index]
    exact ⟨fun h => hwr (decodeRead_pixel w.addr h), fun h => hwr (decodeRead_ledCount w.addr h),
      fun h => hwr (decodeRead_ctrl w.addr h), fun h => hwr (decodeRead_status w.addr h),
      fun h => hwr rfl ▸ List.mem_map_of_mem (decodeRead_reserved w.addr h)⟩
  · obtain ⟨r, hr, -⟩ := decodeTxn_ownRow w
    exact (List.getElem?_eq_some_iff.mp hr).1
  · obtain ⟨r', hr', hacc⟩ := decodeTxn_ownRow w
    have hown : w &&& r'.mask = r'.pattern := beq_iff_eq.mp hacc
    refine ⟨row_unique hr' hr hown, ?_⟩
    rintro rfl
    cases hr'.symm.trans hr
    exact hown

/-! ## The words of script statements (R82) -/

/-- Settles O49: each clause is the assembler's equation; a pixel's address is its index widened. -/
theorem statementsAssembleToTheirWord : Obligations.StatementsAssembleToTheirWord := by
  have hpix (i : BitVec 6) : (Reg.pix i).addr.toNat = i.toNat := BitVec.toNat_setWidth_of_le (by decide)
  exact ⟨rfl, fun _ => rfl, fun _ _ => rfl, hpix, rfl, rfl, rfl, fun _ => rfl, rfl, rfl⟩

end Sys2Proof.Proofs
end

section
/-! PROOFS. The family of spec/40_host_ops.md: what each host operation does and leaves unchanged. Reads, reserved writes
and NOP give the quiet cycle; the other writes give it with the registers of their rule changed. -/

namespace Sys2Proof.Proofs

open Sys2Proof.Machine Sys2Proof.Safety Sys2Proof.Laws

/-! ## The encodings, from the lines of the read table (R52, R72) -/

theorem encoded_read {lo hi : Nat} {f : BitVec 8 → Instr}
    (h : ∀ a, lo ≤ a.toNat → a.toNat ≤ hi → decodeRead a = f a) : Encoded false lo hi fun w => f w.addr :=
  fun w he hw hlo hhi => (decodeTxn_read w he hw).trans (h w.addr hlo hhi)

theorem encoded_write {lo hi : Nat} {f : BitVec 8 → Instr}
    (h : ∀ a, lo ≤ a.toNat → a.toNat ≤ hi → decodeRead a = f a) :
    Encoded true lo hi fun w => asWrite w.wdata (f w.addr) :=
  fun w he hw hlo hhi => decodeTxn_asWrite he hw (h w.addr hlo hhi)

theorem decodeRead_rsvd43 (a : BitVec 8) (h : a.toNat = 0x43) : decodeRead a = .rdRsvd43 := by
  rw [BitVec.eq_of_toNat_eq (y := 0x43#8) h]; rfl

/-- From `0x44` on, the row is found by comparing with the ranges' upper ends. -/
theorem decodeRead_ranges (a : BitVec 8) (h : 0x44 ≤ a.toNat) : decodeRead a =
    if a.toNat ≤ 0x47 then .rdRsvd44 a else if a.toNat ≤ 0x4F then .rdRsvd48 a
    else if a.toNat ≤ 0x5F then .rdRsvd50 a else if a.toNat ≤ 0x7F then .rdRsvd60 a else .rdRsvd80 a := by
  obtain ⟨hpix, h40, h41, h42, h43⟩ := reserved_passes a h
  rw [decodeRead, if_neg hpix, if_neg h40, if_neg h41, if_neg h42, if_neg h43]

theorem decodeRead_rsvd44 (a : BitVec 8) (hlo : 0x44 ≤ a.toNat) (hhi : a.toNat ≤ 0x47) :
    decodeRead a = .rdRsvd44 a := by
  rw [decodeRead_ranges a hlo, if_pos hhi]

theorem decodeRead_rsvd48 (a : BitVec 8) (hlo : 0x48 ≤ a.toNat) (hhi : a.toNat ≤ 0x4F) :
    decodeRead a = .rdRsvd48 a := by
  rw [decodeRead_ranges a (by omega), if_neg (by omega), if_pos hhi]

theorem decodeRead_rsvd50 (a : BitVec 8) (hlo : 0x50 ≤ a.toNat) (hhi : a.toNat ≤ 0x5F) :
    decodeRead a = .rdRsvd50 a := by
  rw [decodeRead_ranges a (by omega), if_neg (by omega), if_neg (by omega), if_pos hhi]

theorem decodeRead_rsvd60 (a : BitVec 8) (hlo : 0x60 ≤ a.toNat) (hhi : a.toNat ≤ 0x7F) :
    decodeRead a = .rdRsvd60 a := by
  rw [decodeRead_ranges a (by omega), if_neg (by omega), if_neg (by omega), if_neg (by omega), if_pos hhi]

theorem decodeRead_rsvd80 (a : BitVec 8) (hlo : 0x80 ≤ a.toNat) : decodeRead a = .rdRsvd80 a := by
  rw [decodeRead_ranges a (by omega), if_neg (by omega), if_neg (by omega), if_neg (by omega), if_neg (by omega)]

/-! ## The read data on the state's own fields -/

theorem readCtrl_eq (s : State) : s.readCtrl = if s.irqEn = true then 0x2 else 0x0 := by
  cases h : s.irqEn <;> simp [State.readCtrl, h]

theorem readStatus_eq (s : State) : s.readStatus =
    (if s.busy = true then 0x1 else 0x0) ||| (if s.done = true then 0x2 else 0x0)
      ||| (if s.errCount = true then 0x4 else 0x0) ||| (if s.errOvr = true then 0x8 else 0x0) := by
  unfold State.readStatus
  generalize s.busy = b, s.done = d, s.errCount = c, s.errOvr = o
  revert b d c o; decide

theorem readStatus_bit_busy (s : State) : s.readStatus.getLsbD 0 = s.busy := by
  simp only [State.readStatus, BitVec.getLsbD_append]; simp

theorem readStatus_bit_done (s : State) : s.readStatus.getLsbD 1 = s.done := by
  simp only [State.readStatus, BitVec.getLsbD_append]; simp

/-! ## The quiet cycle, register by register -/

@[simp] theorem quietCycle_pix (rd : Word) (s : State) : (quietCycle rd s).pix = s.pix := by
  rw [← clockEdge_nothing]; rfl

@[simp] theorem quietCycle_ledCount (rd : Word) (s : State) : (quietCycle rd s).ledCount = s.ledCount := by
  rw [← clockEdge_nothing]; rfl

@[simp] theorem quietCycle_errOvr (rd : Word) (s : State) : (quietCycle rd s).errOvr = s.errOvr := by
  simp [← clockEdge_nothing, nextErrOvr, HostRequest.nothing]

theorem quietCycle_busRdata (rd : Word) (s : State) : (quietCycle rd s).ports.busRdata = rd := by
  rw [← clockEdge_nothing]; rfl

theorem busy_of_lastTransfer {s : State} (h : lastTransfer s = true) : s.busy = true := by
  simp only [lastTransfer, Bool.and_eq_true] at h
  exact h.1.1

/-- The last transfer ends the encode: `BUSY` falls and `DONE` rises (R173). -/
theorem quietCycle_lastTransfer {s : State} (rd : Word) (h : lastTransfer s = true) :
    (quietCycle rd s).busy = false ∧ (quietCycle rd s).done = true := by
  simp [← clockEdge_nothing, nextBusy, nextDone, HostRequest.nothing, seqDone_eq, h]

/-! ## An edge with one request: the quiet cycle with that request's registers (R174) -/

theorem clockEdge_writePix (i : BitVec 6) (c : Color) (rd : Word) (s : State) :
    clockEdge { HostRequest.nothing with pix := some (i, c) } rd s =
      { quietCycle rd s with pix := setPix s.pix i c } := by
  rw [← clockEdge_nothing]; rfl

theorem clockEdge_writeLedCount (n : BitVec 8) (rd : Word) (s : State) :
    clockEdge { HostRequest.nothing with ledCount := some n } rd s = { quietCycle rd s with ledCount := n } := by
  rw [← clockEdge_nothing]; rfl

theorem clockEdge_setOvr (rd : Word) (s : State) :
    clockEdge { HostRequest.nothing with setOvr := true } rd s = { quietCycle rd s with errOvr := true } := by
  rw [← clockEdge_nothing]; rfl

theorem clockEdge_setCnt (rd : Word) (s : State) :
    clockEdge { HostRequest.nothing with setCnt := true } rd s = { quietCycle rd s with errCount := true } := by
  rw [← clockEdge_nothing]; rfl

/-- A START is taken by an idle block, which transfers nothing in that cycle. -/
theorem clockEdge_start (rd : Word) {s : State} (hb : s.busy = false) :
    clockEdge { HostRequest.nothing with start := true } rd s =
      { quietCycle rd s with busy := true, pos := 0, done := false } := by
  have hdone : nextDone { HostRequest.nothing with start := true } s = false := by
    simp [nextDone, State.seqDone, State.xfer, hb]
  rw [← clockEdge_nothing, ← hdone]; rfl

theorem clockEdge_wrStatus (v : Word) (rd : Word) (s : State) :
    clockEdge (wrStatusRequest v) rd s = { quietCycle rd s with
      done := lastTransfer s || (s.done && !v.getLsbD 1)
      errCount := s.errCount && !v.getLsbD 2
      errOvr := s.errOvr && !v.getLsbD 3 } := by
  have hdone : nextDone (wrStatusRequest v) s = (lastTransfer s || (s.done && !v.getLsbD 1)) := by
    simp [nextDone, wrStatusRequest, HostRequest.nothing, seqDone_eq]
  rw [← clockEdge_nothing, ← hdone]; rfl

/-! ## The meanings of the operations -/

/-- What every read, reserved write and NOP does: it asks nothing of the edge. -/
theorem next_quiet (rd : Word) (s : State) : (.next (clockEdge HostRequest.nothing rd s) :
    Host.Outcome State Fault Refusal) = .next (quietCycle rd s) :=
  congrArg _ (clockEdge_nothing rd s)

theorem exec_wrPix (i : BitVec 6) (v : Word) (s : State) :
    exec (.wrPix i v) s = .next (clockEdge (wrPixRequest i v s) 0 s) := rfl

theorem exec_wrLedCount (v : Word) (s : State) :
    exec (.wrLedCount v) s = .next (clockEdge (wrLedCountRequest v s) 0 s) := rfl

/-- `WR_CTRL` writes `IRQ_EN` beside whatever else it asks of the edge (R106). -/
theorem exec_wrCtrl {v : Word} {s t : State} {r : HostRequest}
    (hr : wrCtrlRequest v s = { r with irqEn := some (v.getLsbD 1) }) (ht : clockEdge r 0 s = t) :
    exec (.wrCtrl v) s = .next { t with irqEn := v.getLsbD 1 } := by
  rw [exec, execWrCtrl, hr, ← ht]; rfl

/-! ## The obligations: reads and NOP -/

/-- Settles O8: `ADDR` below `0x40` is a pixel's, and a read is a quiet cycle with its read data. -/
theorem rdPixReadsThePixel : Obligations.RdPixReadsThePixel := by
  refine ⟨?_, fun i s => next_quiet (s.readPix i) s⟩
  simpa only [addr_index] using encoded_read (lo := 0x00) (hi := 0x3F) fun a _ h => decodeRead_pixel a (by omega)

/-- Settles O9: address `0x40` reads the count in a quiet cycle. -/
theorem rdLedCountReadsTheCount : Obligations.RdLedCountReadsTheCount :=
  ⟨encoded_read fun a hlo hhi => decodeRead_ledCount a (le_antisymm hhi hlo), fun s => next_quiet s.readLedCount s⟩

/-- Settles O10: address `0x41` reads `IRQ_EN` in a quiet cycle. -/
theorem rdCtrlReadsIrqEnable : Obligations.RdCtrlReadsIrqEnable := by
  refine ⟨encoded_read fun a hlo hhi => decodeRead_ctrl a (le_antisymm hhi hlo), fun s => ?_⟩
  rw [← readCtrl_eq]
  exact next_quiet s.readCtrl s

/-- Settles O11: the last transfer shows the flags held before the edge that changes them. -/
theorem rdStatusReadsTheFlags : Obligations.RdStatusReadsTheFlags := by
  have hexec (s : State) : exec .rdStatus s = .next (quietCycle s.readStatus s) := next_quiet s.readStatus s
  refine ⟨encoded_read fun a hlo hhi => decodeRead_status a (le_antisymm hhi hlo), fun s => ?_,
    fun s ⟨hgood, _⟩ hlast => ?_⟩
  · rw [← readStatus_eq]
    exact hexec s
  · have hb : s.busy = true := busy_of_lastTransfer hlast
    obtain ⟨-, -, -, hd⟩ := hgood hb
    refine ⟨_, hexec s, ?_, ?_, quietCycle_lastTransfer _ hlast⟩
    · rw [quietCycle_busRdata, readStatus_bit_busy, hb]
    · rw [quietCycle_busRdata, readStatus_bit_done, hd]

/-- Settles O12: each row's range decodes to it, and its meaning is the quiet cycle that reads 0. -/
theorem rdReservedReadsZero : Obligations.RdReservedReadsZero :=
  ⟨encoded_read fun a hlo hhi => decodeRead_rsvd43 a (le_antisymm hhi hlo), encoded_read decodeRead_rsvd44,
    encoded_read decodeRead_rsvd48, encoded_read decodeRead_rsvd50, encoded_read decodeRead_rsvd60,
    encoded_read fun a hlo _ => decodeRead_rsvd80 a hlo,
    fun _ s => have hq := next_quiet 0 s; ⟨hq, hq, hq, hq, hq, hq⟩⟩

/-- Settles O13: without `EN` the decoder looks at nothing else, and NOP is the quiet cycle that reads 0. -/
theorem nopOnlyStepsTheSequencer : Obligations.NopOnlyStepsTheSequencer :=
  ⟨decodeTxn_idle, next_quiet 0⟩

/-! ## The obligations: writes -/

/-- Settles O14, by `BUSY` before the edge. -/
theorem wrPixStoresOrIsDropped : Obligations.WrPixStoresOrIsDropped := by
  refine ⟨?_, fun i v s => ?_⟩
  · have h := encoded_write (lo := 0x00) (hi := 0x3F) fun a _ h => decodeRead_pixel a (by omega)
    simp only [addr_index] at h
    exact h
  · have hcell : wdataCell v = v.setWidth 24 := BitVec.eq_of_toNat_eq rfl
    rw [exec_wrPix]
    cases hb : s.busy with
    | true => simp [wrPixRequest, hb, clockEdge_setOvr]
    | false => simp [wrPixRequest, hb, clockEdge_writePix, setPix, hcell]

/-- Settles O15, by `BUSY` before the edge. -/
theorem wrLedCountStoresOrIsDropped : Obligations.WrLedCountStoresOrIsDropped := by
  refine ⟨encoded_write fun a hlo hhi => decodeRead_ledCount a (le_antisymm hhi hlo), fun v s => ?_⟩
  have hcount : wdataCount v = v.setWidth 8 := BitVec.eq_of_toNat_eq rfl
  rw [exec_wrLedCount]
  cases hb : s.busy with
  | true => simp [wrLedCountRequest, hb, clockEdge_setOvr]
  | false => simp [wrLedCountRequest, hb, clockEdge_writeLedCount, hcount]

/-- Settles O16: each case of R106 is the edge of its own request, with `IRQ_EN` written beside it. -/
theorem wrCtrlStartsOrReports : Obligations.WrCtrlStartsOrReports := by
  refine ⟨encoded_write fun a hlo hhi => decodeRead_ctrl a (le_antisymm hhi hlo), fun v s => ?_⟩
  rw [← countLegal_iff]
  refine ⟨fun h0 => ?_, fun h0 hb => ?_, fun h0 hb hc => ?_, fun h0 hb hc => ?_⟩
  · exact exec_wrCtrl (by simp only [wrCtrlRequest, h0, Bool.false_eq_true, if_false]) (clockEdge_nothing 0 s)
  · exact exec_wrCtrl (by simp [wrCtrlRequest, h0, hb]) (clockEdge_setOvr 0 s)
  · exact exec_wrCtrl (by simp [wrCtrlRequest, h0, hb, hc]) (clockEdge_start 0 hb)
  · exact exec_wrCtrl (by simp [wrCtrlRequest, h0, hb, hc]) (clockEdge_setCnt 0 s)

/-- Settles O17: the edge of its clear requests, which leave the set of `DONE` at the last transfer standing. -/
theorem wrStatusClearsByOnes : Obligations.WrStatusClearsByOnes :=
  ⟨encoded_write fun a hlo hhi => decodeRead_status a (le_antisymm hhi hlo),
    fun v s => congrArg _ (clockEdge_wrStatus v 0 s)⟩

/-- Settles O18: each row's range decodes to it, as for the reads, and its meaning is the quiet cycle. -/
theorem wrReservedChangesNothing : Obligations.WrReservedChangesNothing :=
  ⟨encoded_write fun a hlo hhi => decodeRead_rsvd43 a (le_antisymm hhi hlo), encoded_write decodeRead_rsvd44,
    encoded_write decodeRead_rsvd48, encoded_write decodeRead_rsvd50, encoded_write decodeRead_rsvd60,
    encoded_write fun a hlo _ => decodeRead_rsvd80 a hlo,
    fun _ _ s => have hq := next_quiet 0 s; ⟨hq, hq, hq, hq, hq, hq⟩⟩

end Sys2Proof.Proofs
end

section
/-! PROOFS. The family of spec/41_datapath.md: channels, symbols and bytes of a cell, and the bytes of a row frame. -/

namespace Sys2Proof.Proofs

open Sys2Proof.Machine Sys2Proof.Safety Sys2Proof.Laws

/-! ## The channels of a cell (R143) -/

/-- Settles O39: each channel is the part of the appended bytes that lies above the parts sent after it. -/
theorem channelsComeGreenRedBlue : Obligations.ChannelsComeGreenRedBlue := by
  refine ⟨fun g r b => ⟨?_, ?_, ?_⟩, rfl⟩
  · exact (BitVec.extractLsb'_append_eq_of_le (Nat.le_add_right 8 8)).trans BitVec.extractLsb'_append_eq_left
  · exact (BitVec.extractLsb'_append_eq_of_le (Nat.le_refl 8)).trans BitVec.extractLsb'_append_eq_right
  · exact BitVec.extractLsb'_append_eq_right

/-! ## The symbols of a channel code (R144, R145) -/

theorem symbolAt_expand (c : Byte) {k : Nat} (hk : k < 8) : symbolAt (expand c) k = sym (c.getLsbD (7 - k)) := by
  unfold symbolAt expand
  interval_cases k <;> simp [BitVec.extractLsb'_append_eq_ite (w := 5)]

theorem sym_injective : Function.Injective sym := by decide

/-- A code's symbols determine the bits they stand for, and these are all the bits of the byte. -/
theorem expand_injective : Function.Injective expand := by
  intro c d h
  refine BitVec.eq_of_getLsbD_eq fun i hi => sym_injective ?_
  obtain ⟨k, hk, rfl⟩ : ∃ k, k < 8 ∧ i = 7 - k := ⟨7 - i, by omega, by omega⟩
  rw [← symbolAt_expand c hk, ← symbolAt_expand d hk, h]

/-- Settles O40, from the symbol at each place of a code. -/
theorem channelCodeIsTheSymbolsOfItsBits : Obligations.ChannelCodeIsTheSymbolsOfItsBits :=
  ⟨fun c _ hk => symbolAt_expand c hk, fun _ _ h => expand_injective h, by decide, by decide, by decide⟩

/-! ## The bytes of a channel code (R146) -/

/-- The packing loses and reorders no bit of the code. -/
theorem chBytes_append (c : Byte) :
    (chBytes c)[0] ++ (chBytes c)[1] ++ (chBytes c)[2] ++ (chBytes c)[3] ++ (chBytes c)[4] = expand c := by
  have join {m : Nat} (i : Nat) : (expand c).extractLsb' (i + 8) m ++ (expand c).extractLsb' i 8 =
      (expand c).extractLsb' i (m + 8) := BitVec.extractLsb'_append_extractLsb'_eq_extractLsb' rfl
  calc (expand c).extractLsb' 32 8 ++ (expand c).extractLsb' 24 8 ++ (expand c).extractLsb' 16 8
        ++ (expand c).extractLsb' 8 8 ++ (expand c).extractLsb' 0 8
      = (expand c).extractLsb' 0 40 := by rw [join 24, join 16, join 8, join 0]
    _ = expand c := BitVec.extractLsb'_eq_self

/-- The whole symbols and the parts of symbols in each byte: those of bits 6, 4, 3 and 1 straddle a byte boundary. -/
theorem chBytes_eq_symbols (c : Byte) : chBytes c =
    #v[sym (c.getLsbD 7) ++ (sym (c.getLsbD 6)).extractLsb' 2 3,
      (sym (c.getLsbD 6)).extractLsb' 0 2 ++ sym (c.getLsbD 5) ++ (sym (c.getLsbD 4)).extractLsb' 4 1,
      (sym (c.getLsbD 4)).extractLsb' 0 4 ++ (sym (c.getLsbD 3)).extractLsb' 1 4,
      (sym (c.getLsbD 3)).extractLsb' 0 1 ++ sym (c.getLsbD 2) ++ (sym (c.getLsbD 1)).extractLsb' 3 2,
      (sym (c.getLsbD 1)).extractLsb' 0 3 ++ sym (c.getLsbD 0)] := by
  simp [chBytes, expand, BitVec.extractLsb'_append_eq_ite (w := 5)]

/-- Settles O41: the bytes join to the code, and each byte equation is checked on the two or three bits whose symbols
its byte holds. -/
theorem channelBytesArePackedMsbFirst : Obligations.ChannelBytesArePackedMsbFirst := by
  refine ⟨chBytes_append, fun c => ?_, by decide⟩
  rw [chBytes_eq_symbols]
  generalize c.getLsbD 7 = b7, c.getLsbD 6 = b6, c.getLsbD 5 = b5, c.getLsbD 4 = b4, c.getLsbD 3 = b3,
    c.getLsbD 2 = b2, c.getLsbD 1 = b1, c.getLsbD 0 = b0
  refine ⟨?_, ?_, ?_, ?_, ?_⟩
  · cases b7 <;> cases b6 <;> rfl
  · cases b6 <;> cases b5 <;> cases b4 <;> rfl
  · cases b4 <;> cases b3 <;> rfl
  · cases b3 <;> cases b2 <;> cases b1 <;> rfl
  · cases b1 <;> cases b0 <;> rfl

/-! ## The byte at an index of the row frame (R148) -/

theorem ledByte_channel (g : Gamma) (x : Color) (k : Fin 3) {j : Nat} (hj : j < 5) :
    ledByte g x ⟨5 * k.val + j, by omega⟩ = (chBytes (correct g (chan x k)))[j] := by
  have hdiv : (5 * k.val + j) / 5 = k.val := by omega
  have hmod : (5 * k.val + j) % 5 = j := by omega
  simp only [ledByte, chanCode, hdiv, hmod]

theorem ledByte_ne_zero (g : Gamma) (x : Color) (r : Fin 15) : ledByte g x r ≠ 0x00 :=
  chBytes_ne_zero _ ⟨r.val % 5, Nat.mod_lt _ (by decide)⟩

theorem rowByte_first (g : Gamma) (P : PixStore) (n : Nat) : rowByte g P n 0 = 0x00 := if_pos rfl

theorem rowByte_last (g : Gamma) (P : PixStore) (n : Nat) : rowByte g P n (15 * n + 1) = 0x00 := by
  simp [rowByte, lastIndex]

/-- Between the two zero bytes the frame is in the domain of R148, where the pixel exists. -/
theorem rowByte_inner (g : Gamma) (P : PixStore) {n q : Nat} (hn : n ≤ 64) (hq : q < 15 * n) :
    rowByte g P n (q + 1) = ledByte g P[q / 15] ⟨q % 15, by omega⟩ := by
  have hlast : q + 1 ≠ lastIndex n := by unfold lastIndex; omega
  have hled : q / 15 < 64 := by omega
  simp [rowByte, hlast, hled]

/-- Settles O42: an inner index divides by 15 into the LED and the byte of its code, which is that of its channel. -/
theorem rowByteSelectsLedChannelAndByte : Obligations.RowByteSelectsLedChannelAndByte := by
  intro g P n _ hn
  refine ⟨rowByte_first g P n, rowByte_last g P n, fun led k j hl hj hled => ?_⟩
  have hdiv : (15 * led + (5 * k.val + j)) / 15 = led := by omega
  have hmod : (15 * led + (5 * k.val + j)) % 15 = 5 * k.val + j := by omega
  rw [Nat.add_assoc (15 * led), rowByte_inner g P hn (by omega)]
  simp only [hdiv, hmod]
  exact ledByte_channel g P[led] k hj

/-! ## The row frame (R149) -/

/-- The frame between its two zero bytes has 15 bytes for each LED. -/
theorem rowCodes_length (g : Gamma) (P : PixStore) {n : Nat} (hn : n ≤ 64) :
    ((P.toList.take n).map (encodeLed g)).flatten.length = 15 * n := by
  rw [ledCodes_length, row_take_length P n hn]

theorem rowCodes_getElem? (g : Gamma) (P : PixStore) {n q : Nat} (hn : n ≤ 64) (hq : q < 15 * n) :
    ((P.toList.take n).map (encodeLed g)).flatten[q]? = some (rowByte g P n (q + 1)) := by
  have hled : q / 15 < n := by omega
  have hcell : (P.toList.take n)[q / 15]? = some P[q / 15] := by simp [hled]
  rw [ledCodes_getElem? g _ q (by rwa [row_take_length P n hn]), rowByte_inner g P hn hq, hcell, Option.map_some]

theorem encodeRow_length (g : Gamma) (P : PixStore) {n : Nat} (hn : n ≤ 64) :
    (encodeRow g P n).length = 15 * n + 2 := by
  simp only [encodeRow, List.length_append, rowCodes_length g P hn, List.length_singleton]
  omega

theorem encodeRow_getElem? (g : Gamma) (P : PixStore) {n p : Nat} (hn : n ≤ 64) (hp : p ≤ 15 * n + 1) :
    (encodeRow g P n)[p]? = some (rowByte g P n p) := by
  rw [encodeRow, List.append_assoc, List.singleton_append]
  cases p with
  | zero => rw [rowByte_first, List.getElem?_cons_zero]
  | succ q =>
    rw [List.getElem?_cons_succ]
    have hlen := rowCodes_length g P hn
    rcases Nat.lt_or_ge q (15 * n) with hq | hq
    · rw [List.getElem?_append_left (by rwa [hlen]), rowCodes_getElem? g P hn hq]
    · obtain rfl : q = 15 * n := by omega
      rw [rowByte_last, ← hlen, List.getElem?_concat_length]

theorem rowByte_inner_ne_zero (g : Gamma) (P : PixStore) {n p : Nat} (hn : n ≤ 64) (h1 : 1 ≤ p) (hp : p ≤ 15 * n) :
    rowByte g P n p ≠ 0x00 := by
  obtain ⟨q, rfl⟩ := Nat.exists_eq_add_of_le' h1
  rw [rowByte_inner g P hn hp]
  exact ledByte_ne_zero _ _ _

/-- Settles O43: the LED code and the frame are R147's and R149's by definition; the bytes by index follow from those of
the LED codes, none of which is zero. -/
theorem rowFrameIsTheRowBytes : Obligations.RowFrameIsTheRowBytes :=
  ⟨fun _ _ => rfl, by decide, fun _ _ _ _ _ => rfl, fun g P _ _ hn =>
    ⟨encodeRow_length g P hn, fun _ hp => encodeRow_getElem? g P hn hp,
      fun _ h1 hp => rowByte_inner_ne_zero g P hn h1 hp⟩⟩

end Sys2Proof.Proofs
end

section
/-! PROOFS. The family of spec/42_sequencer.md: a cycle follows the next-state equations of R174. -/

namespace Sys2Proof.Proofs

open Sys2Proof.Machine Sys2Proof.Safety Sys2Proof.Laws

/-! ## The sequencer's registers in the form of R174's equations -/

theorem nextBusy_eq (r : HostRequest) (s : State) : nextBusy r s = (r.start || (s.busy && !s.seqDone)) := by
  unfold nextBusy
  cases r.start <;> cases s.seqDone <;> simp

theorem nextPos_eq (r : HostRequest) (s : State) :
    nextPos r s = if (r.start || s.seqDone) = true then 0 else if s.xfer = true then s.pos + 1 else s.pos := by
  unfold nextPos
  cases r.start <;> cases s.seqDone <;> simp

/-! ## The registers after an edge -/

/-- The edge of a transaction word gives the registers of R174's next state. -/
theorem archOf_clockEdge (w : Txn) (rd : Word) (s : State) :
    archOf (clockEdge (requestOf w s) rd s) = stepEquations (archOf s) w s.outReady := by
  rw [requestOf_eq, countLegal_eq]
  simp only [archOf, stepEquations, Arch.mk.injEq]
  refine ⟨?pix, ?ledCount, ?irqEn, ?busy, ?pos, ?flags⟩
  case pix =>
    by_cases h : (writesPix w && !s.busy) = true
    · simp only [clockEdge_pix, h, if_true, setPix, addr_index]
    · simp only [clockEdge_pix, h, Bool.false_eq_true, if_false]
  case ledCount => exact apply_ite (Option.getD · s.ledCount) _ _ _
  case irqEn => exact apply_ite (Option.getD · s.irqEn) _ _ _
  case busy => exact nextBusy_eq _ s
  case pos => exact nextPos_eq _ s
  case flags => exact ⟨rfl, rfl, rfl⟩

theorem archOf_resetEdge (rd : Word) (s : State) :
    archOf (resetEdge rd s) = ⟨(resetEdge rd s).pix, 0, false, false, 0, false, false, false⟩ := by
  simp only [archOf, resetEdge_ledCount, resetEdge_irqEn, resetEdge_busy, resetEdge_pos, resetEdge_done,
    resetEdge_errCount, resetEdge_errOvr]

/-- Taking the pins of a cycle changes no register of the spec. -/
theorem archOf_popInput_setReady (s : State) (rdy : Bool) : archOf (s.popInput.setReady rdy) = archOf s := by
  simp [archOf]

/-! ## The byte stream after an edge -/

/-- A transfer adds the byte on the port `out_data` of its cycle, and nothing else adds a byte (R172). -/
theorem emitted_clockEdge (r : HostRequest) (rd : Word) (s : State) :
    (clockEdge r rd s).emitted = s.emitted ++
      (if s.busy = true ∧ s.outReady = true then [(clockEdge r rd s).ports.outData] else []) := by
  have hxfer : s.xfer = true ↔ s.busy = true ∧ s.outReady = true := Bool.and_eq_true_iff
  simp only [clockEdge_emitted, clockEdge_ports, State.portsNow, hxfer]
  split_ifs
  · rfl
  · rw [List.append_nil]

/-- Settles O20, by the edge that ends the cycle, reset or not: taking the cycle's pins changes no register, and the edge
then gives the registers and the byte of R174. -/
theorem stepRefinesTheCycleEquations : Obligations.StepRefinesTheCycleEquations := by
  intro s w rdy rst hn
  cases rst with
  | false =>
    refine ⟨_, step_cycle s w rdy hn, fun _ => ⟨?_, ?_⟩, nofun⟩
    · rw [archOf_clockEdge, archOf_popInput_setReady, setReady_outReady]
    · rw [emitted_clockEdge]
      simp only [setReady_emitted, popInput_emitted, setReady_busy, popInput_busy, setReady_outReady]
  | true =>
    refine ⟨_, step_reset s w rdy hn, nofun, fun _ => ⟨archOf_resetEdge _ _, ?_⟩⟩
    rw [resetEdge_emitted, setReady_emitted, popInput_emitted]

end Sys2Proof.Proofs
end

section
/-! PROOFS. The family of spec/60_exceptions.md: when the two error flags are raised, what a dropped write leaves alone,
and what happens where events meet at one edge. -/

namespace Sys2Proof.Proofs

open Sys2Proof.Machine Sys2Proof.Safety Sys2Proof.Laws

/-! ## A word writes one register only (R52) -/

theorem writesTo_other {w : Txn} {a b : Nat} (h : writesTo w a = true) (hab : a ≠ b) : writesTo w b = false := by
  simp only [writesTo, Bool.and_eq_true, beq_iff_eq] at h
  obtain ⟨-, rfl⟩ := h
  simp [writesTo, hab]

theorem writesTo_of_isStart {w : Txn} (h : isStart w = true) : writesTo w 0x41 = true :=
  (Bool.and_eq_true_iff.mp h).1

theorem not_writesTo_of_writesPix {w : Txn} {a : Nat} (h : writesPix w = true) (ha : 64 ≤ a) :
    writesTo w a = false := by
  simp only [writesPix, Bool.and_eq_true, decide_eq_true_eq] at h
  obtain ⟨-, hlt⟩ := h
  have hne : txnAddr w ≠ a := by omega
  simp [writesTo, hne]

theorem not_writesPix_of_isStart {w : Txn} (h : isStart w = true) : writesPix w = false := by
  refine Bool.eq_false_iff.mpr fun hp => ?_
  have h41 : writesTo w 0x41 = false := not_writesTo_of_writesPix hp (by decide)
  exact absurd (writesTo_of_isStart h) (Bool.eq_false_iff.mp h41)

/-- A write that `BUSY` drops is no write of `STATUS`, so it clears no flag. -/
theorem not_writesStatus_of_droppedWrite {w : Txn}
    (h : writesPix w = true ∨ writesTo w 0x40 = true ∨ isStart w = true) : writesTo w 0x42 = false := by
  obtain hp | hl | hs := h
  · exact not_writesTo_of_writesPix hp (by decide)
  · exact writesTo_other hl (by decide)
  · exact writesTo_other (writesTo_of_isStart hs) (by decide)

theorem legalCount_eq_false_iff (n : BitVec 8) : legalCount n = false ↔ n.toNat = 0 ∨ 64 < n.toNat := by
  simp only [legalCount, decide_eq_false_iff_not]
  omega

/-! ## A refused START and a dropped write, as next states (R201, R202) -/

/-- A START refused for its count changes `IRQ_EN` and `ERR_COUNT` only. -/
theorem stepEquations_illegalStart {a : Arch} {w : Txn} (rdy : Bool) (hs : isStart w = true) (hb : a.busy = false)
    (hc : legalCount a.ledCount = false) :
    stepEquations a w rdy = { a with irqEn := w.getLsbD 1, errCount := true } := by
  have h41 := writesTo_of_isStart hs
  have h40 : writesTo w 0x40 = false := writesTo_other h41 (by decide)
  have h42 : writesTo w 0x42 = false := writesTo_other h41 (by decide)
  simp [stepEquations, hs, hb, hc, h40, h41, h42, not_writesPix_of_isStart hs]

/-- A dropped write gives the next state of the idle word, with `ERR_OVR` set and, by a START, `IRQ_EN` written. -/
theorem stepEquations_droppedWrite {a : Arch} {w : Txn} (rdy : Bool) (hb : a.busy = true)
    (hw : writesPix w = true ∨ writesTo w 0x40 = true ∨ isStart w = true) :
    stepEquations a w rdy = { stepEquations a 0 rdy with
      irqEn := if writesTo w 0x41 = true then w.getLsbD 1 else a.irqEn
      errOvr := true } := by
  have h42 := not_writesStatus_of_droppedWrite hw
  have hset : (writesPix w || writesTo w 0x40 || isStart w) = true := by simpa [or_assoc] using hw
  simp [stepEquations, hb, h42, hset]

/-- The cycle in which the host changes nothing is that of the idle word. -/
theorem archOf_quietCycle (rd : Word) (s : State) :
    archOf (quietCycle rd s) = stepEquations (archOf s) 0 s.outReady := by
  rw [← clockEdge_nothing]
  exact archOf_clockEdge 0 rd s

/-! ## The registers after a cycle, by the equations of R174 -/

section AfterCycle

variable {s t : State} {w : Txn} {rdy : Bool} (hn : s.nextInput = .cycle w rdy false) (ht : step s = .next t)
include hn ht

theorem archOf_after_cycle : archOf t = stepEquations (archOf s) w rdy := by
  obtain ⟨t', ht', hcycle, -⟩ := stepRefinesTheCycleEquations s w rdy false hn
  cases ht.symm.trans ht'
  exact (hcycle rfl).1

theorem errCount_after_cycle : t.errCount =
    (isStart w && !s.busy && !legalCount s.ledCount || s.errCount && !(writesTo w 0x42 && w.getLsbD 2)) :=
  congrArg Arch.errCount (archOf_after_cycle hn ht)

theorem errOvr_after_cycle : t.errOvr =
    (s.busy && (writesPix w || writesTo w 0x40 || isStart w) || s.errOvr && !(writesTo w 0x42 && w.getLsbD 3)) :=
  congrArg Arch.errOvr (archOf_after_cycle hn ht)

theorem done_after_cycle : t.done = (s.busy && rdy && s.pos.toNat == 15 * s.ledCount.toNat + 1 ||
    s.done && !(writesTo w 0x42 && w.getLsbD 1) && !(isStart w && !s.busy && legalCount s.ledCount)) :=
  congrArg Arch.done (archOf_after_cycle hn ht)

/-- Which byte leaves at an edge is not the host's to say (R172). -/
theorem emitted_after_cycle : t.emitted = (quietCycle 0 (s.setReady rdy)).emitted := by
  cases (step_cycle s w rdy hn).symm.trans ht
  rw [← clockEdge_nothing]
  simp [State.xfer]

/-- A dropped write leaves the encode as the quiet cycle leaves it (R202). -/
theorem droppedWrite_after_cycle (hb : s.busy = true)
    (hw : writesPix w = true ∨ writesTo w 0x40 = true ∨ isStart w = true) :
    archOf t = { archOf (quietCycle 0 (s.setReady rdy)) with
      irqEn := if writesTo w 0x41 = true then w.getLsbD 1 else s.irqEn
      errOvr := true } := by
  rw [archOf_after_cycle hn ht, stepEquations_droppedWrite rdy hb hw, archOf_quietCycle]
  rfl

end AfterCycle

/-! ## The obligations -/

/-- Settles O32: the cause is the request `set_cnt` of R174, and the refused START's next state is the held one but for
`IRQ_EN` and the flag. -/
theorem countErrorIsRaisedExactlyByIllegalStart : Obligations.CountErrorIsRaisedExactlyByIllegalStart := by
  intro s t w rdy hn ht
  rw [← legalCount_eq_false_iff]
  refine ⟨fun hf => ?_, fun hs hb hc => ?_⟩
  · rw [errCount_after_cycle hn ht, hf]
    simp [and_assoc]
  · have hnext := (archOf_after_cycle hn ht).trans (stepEquations_illegalStart rdy hs hb hc)
    simp only [archOf, Arch.mk.injEq] at hnext
    obtain ⟨hpix, hcount, hirq, hbusy, hpos, hdone, hcnt, hovr⟩ := hnext
    have hemit : t.emitted = s.emitted := by
      rw [emitted_after_cycle hn ht, ← clockEdge_nothing]
      simp [State.xfer, hb]
    exact ⟨hcnt, hbusy, hdone, hemit, hirq, hcount, hpix, hpos, hovr⟩

/-- Settles O33: the cause is the request `set_ovr` of R174, and the dropped write's next state is the quiet cycle's
but for `IRQ_EN` and the flag. -/
theorem overlapErrorIsRaisedExactlyByBusyWrites : Obligations.OverlapErrorIsRaisedExactlyByBusyWrites := by
  intro s t w rdy hn ht
  refine ⟨fun hf => ?_, fun hb hw => ?_⟩
  · rw [errOvr_after_cycle hn ht, hf]
    simp [or_assoc]
  · have hnext := droppedWrite_after_cycle hn ht hb hw
    simp only [archOf, Arch.mk.injEq, quietCycle_pix, quietCycle_ledCount] at hnext
    obtain ⟨hpix, hcount, -, hbusy, hpos, hdone, -, hovr⟩ := hnext
    exact ⟨hovr, hpix, hcount, hbusy, hpos, hdone, emitted_after_cycle hn ht⟩

/-- Settles O35: the requests of the two errors differ in `BUSY`; a START while busy is a dropped write; and `seq_done`
sets `DONE` whatever the word asks for. -/
theorem simultaneousEventsCombine : Obligations.SimultaneousEventsCombine := by
  intro s t w rdy hn ht
  have hlast (hb : s.busy = true) (hr : rdy = true) (hp : s.pos.toNat = 15 * s.ledCount.toNat + 1) :
      t.done = true := by
    simp [done_after_cycle hn ht, hb, hr, hp]
  have hdrop (hb : s.busy = true) (hw : writesPix w = true ∨ writesTo w 0x40 = true ∨ isStart w = true) :
      t.errOvr = true := ((overlapErrorIsRaisedExactlyByBusyWrites s t w rdy hn ht).2 hb hw).1
  refine ⟨fun hc ho => ?_, fun hb hs => ⟨hdrop hb (.inr (.inr hs)), ?_⟩, hlast,
    fun hb hr hp hw => ⟨hlast hb hr hp, hdrop hb (.inl hw)⟩⟩
  · rw [errCount_after_cycle hn ht, errOvr_after_cycle hn ht, hc, ho]
    cases s.busy <;> simp
  · have h42 : writesTo w 0x42 = false := writesTo_other (writesTo_of_isStart hs) (by decide)
    simp [errCount_after_cycle hn ht, hb, h42]

end Sys2Proof.Proofs
end

section
/-! PROOFS. The family of spec/70_reset_and_hazards.md: the registers after a reset edge. -/

namespace Sys2Proof.Proofs

open Sys2Proof.Machine Sys2Proof.Laws

/-- Settles O24, by the next state of a cycle with `rst` = 1: the edge resets every register but the table, and taking the
cycle's pins changes neither the table nor the byte stream. -/
theorem resetEdgeReachesResetState : Obligations.ResetEdgeReachesResetState := by
  intro s w rdy hn
  refine ⟨_, step_reset s w rdy hn, resetEdge_ledCount _ _, resetEdge_irqEn _ _, resetEdge_busy _ _, resetEdge_done _ _,
    resetEdge_errCount _ _, resetEdge_errOvr _ _, resetEdge_pos _ _, ?gamma, ?emitted⟩
  case gamma => rw [resetEdge_gamma, setReady_gamma, popInput_gamma]
  case emitted => rw [resetEdge_emitted, setReady_emitted, popInput_emitted]

end Sys2Proof.Proofs
end

section
/-! PROOFS. The encoding as a whole: the round trips between instructions and words (R71, R72, R74), and that every word
of a cycle has a meaning. -/

namespace Sys2Proof.Proofs

open Sys2Proof.Machine Sys2Proof.Safety Sys2Proof.Laws

/-! ## Decoding an encoded instruction -/

theorem addrIn_iff {lo hi : Nat} {a : BitVec 8} : addrIn lo hi a = true ↔ lo ≤ a.toNat ∧ a.toNat ≤ hi := by
  simp [addrIn]

theorem decode_read_word {a : BitVec 8} {i : Instr} (h : decodeRead a = i) :
    decode (.txn (Txn.mk true false a 0)) = .ok i := by
  rw [decode, decodeTxn_read _ (en_mk ..) (we_mk ..), addr_mk, h]

theorem decode_write_word {a : BitVec 8} {i : Instr} (v : Word) (h : decodeRead a = i) :
    decode (.txn (Txn.mk true true a v)) = .ok (asWrite v i) := by
  rw [decode, decodeTxn_write _ (en_mk ..) (we_mk ..), addr_mk, wdata_mk, decodeWrite_eq, h]

/-- The address a pixel's index is encoded as reads that pixel. -/
theorem decodeRead_setWidth (i : BitVec 6) : decodeRead (i.setWidth 8) = .rdPix i := by
  obtain ⟨htop, hidx⟩ := pixel_address i
  rw [decodeRead, if_pos htop, hidx]

/-- Settles O3, by the constructor: the read at the address of its encoding is the instruction or the read it shares the
address with; a reserved address lies in its row's range because the instruction is well-formed. -/
theorem decodeOfEncodeIsIdentity : Obligations.DecodeOfEncodeIsIdentity := by
  intro i hi
  cases i with
  | nop => exact congrArg _ (decodeTxn_idle _ (en_mk ..))
  | rdPix k => exact decode_read_word (decodeRead_setWidth k)
  | rdLedCount | rdCtrl | rdStatus | rdRsvd43 => exact decode_read_word rfl
  | rdRsvd44 a => exact decode_read_word ((addrIn_iff.mp hi).elim (decodeRead_rsvd44 a))
  | rdRsvd48 a => exact decode_read_word ((addrIn_iff.mp hi).elim (decodeRead_rsvd48 a))
  | rdRsvd50 a => exact decode_read_word ((addrIn_iff.mp hi).elim (decodeRead_rsvd50 a))
  | rdRsvd60 a => exact decode_read_word ((addrIn_iff.mp hi).elim (decodeRead_rsvd60 a))
  | rdRsvd80 a => exact decode_read_word (decodeRead_rsvd80 a (addrIn_iff.mp hi).1)
  | wrPix k v => exact decode_write_word v (decodeRead_setWidth k)
  | wrLedCount v | wrCtrl v | wrStatus v | wrRsvd43 v => exact decode_write_word v rfl
  | wrRsvd44 a v => exact decode_write_word v ((addrIn_iff.mp hi).elim (decodeRead_rsvd44 a))
  | wrRsvd48 a v => exact decode_write_word v ((addrIn_iff.mp hi).elim (decodeRead_rsvd48 a))
  | wrRsvd50 a v => exact decode_write_word v ((addrIn_iff.mp hi).elim (decodeRead_rsvd50 a))
  | wrRsvd60 a v => exact decode_write_word v ((addrIn_iff.mp hi).elim (decodeRead_rsvd60 a))
  | wrRsvd80 a v => exact decode_write_word v (decodeRead_rsvd80 a (addrIn_iff.mp hi).1)
  | sym1 | sym0 => rfl

/-! ## Encoding a decoded word -/

theorem encode_decodeRead (a : BitVec 8) : encode (decodeRead a) = .txn (Txn.mk true false a 0) := by
  rcases decodeRead_cases a with ⟨h, e⟩ | ⟨rfl, e⟩ | ⟨rfl, e⟩ | ⟨rfl, e⟩ | ⟨rfl, e⟩ | ⟨-, e⟩ | ⟨-, e⟩ | ⟨-, e⟩ |
    ⟨-, e⟩ | ⟨-, e⟩
  · rw [e, encode, pixel_address_back a ((top_bits_zero_iff a).mpr h)]
  all_goals rw [e]; rfl

theorem encode_decodeWrite (a : BitVec 8) (v : Word) : encode (decodeWrite a v) = .txn (Txn.mk true true a v) := by
  rcases decodeWrite_cases a v with ⟨h, e⟩ | ⟨rfl, e⟩ | ⟨rfl, e⟩ | ⟨rfl, e⟩ | ⟨rfl, e⟩ | ⟨-, e⟩ | ⟨-, e⟩ | ⟨-, e⟩ |
    ⟨-, e⟩ | ⟨-, e⟩
  · rw [e, encode, pixel_address_back a ((top_bits_zero_iff a).mpr h)]
  all_goals rw [e]; rfl

/-- Masking `EN`, `WE` and `ADDR` clears the write data. -/
theorem mask_eq_mk (w : Txn) : w &&& 0x3FF00000000 = Txn.mk w.en w.we w.addr 0 := by
  have h := (mk_and_mask w.en w.we w.addr w.wdata (BitVec.allOnes 10) _).mpr BitVec.and_allOnes
  rw [mk_fields] at h
  exact h

/-- A symbol's byte is the encoding of the operation it decodes to. -/
theorem encode_of_decodeSym {b : Byte} {i : Instr} (h : decodeSym b = .ok i) : encode i = .sym b := by
  unfold decodeSym at h
  split_ifs at h with h1 h0
  · cases h; rw [h1]; rfl
  · cases h; rw [h0]; rfl

/-- Settles O4, by the kind of the word: its fields give the word back, less those the kind ignores. -/
theorem encodeOfDecodeKeepsMeaningfulBits : Obligations.EncodeOfDecodeKeepsMeaningfulBits := by
  refine ⟨fun w (he : w.en = true) (hw : w.we = true) => ?_, fun w (he : w.en = true) (hw : w.we = false) => ?_,
    fun w he => ?_, fun b i h => encode_of_decodeSym h⟩
  · have hword := mk_fields w
    rw [he, hw] at hword
    rw [decodeTxn_write w he hw, encode_decodeWrite, hword]
  · rw [decodeTxn_read w he hw, encode_decodeRead, mask_eq_mk, he, hw]
  · rw [decodeTxn_idle w he]; rfl

/-- Settles O2: the decoder evaluated on each word. -/
theorem writtenOutWordsDecode : Obligations.WrittenOutWordsDecode :=
  ⟨rfl, rfl, rfl, rfl, rfl, rfl, rfl, rfl, rfl, rfl, rfl, rfl, rfl, rfl⟩

/-! ## Every cycle has a meaning (R78, R200) -/

theorem decodeRead_wellFormed (a : BitVec 8) : (decodeRead a).WellFormed := by
  rcases decodeRead_cases a with ⟨-, e⟩ | ⟨-, e⟩ | ⟨-, e⟩ | ⟨-, e⟩ | ⟨-, e⟩ | ⟨h, e⟩ | ⟨h, e⟩ | ⟨h, e⟩ | ⟨h, e⟩ | ⟨h, e⟩
  iterate 5
    rw [e]; rfl
  all_goals rw [e]; exact h

theorem asWrite_wellFormed (v : Word) {i : Instr} (h : i.WellFormed) : (asWrite v i).WellFormed := by
  cases i <;> exact h

theorem decodeTxn_wellFormed (w : Txn) : (decodeTxn w).WellFormed := by
  cases he : w.en with
  | false => rw [decodeTxn_idle w he]; rfl
  | true =>
    cases hw : w.we with
    | false => rw [decodeTxn_read w he hw]; exact decodeRead_wellFormed _
    | true => rw [decodeTxn_asWrite he hw rfl]; exact asWrite_wellFormed _ (decodeRead_wellFormed _)

/-- Settles O6: a word decodes to an instruction of the row its address lies in, and a cycle, with or without reset, is
an edge. -/
theorem everyCycleCompletes : Obligations.EveryCycleCompletes :=
  fun s w rdy rst hn => ⟨decodeTxn_wellFormed w, step_cycle_next s w rdy rst hn⟩

/-- Settles O7, by the step of a line-symbol input. -/
theorem otherPatternsAreNoSymbol : Obligations.OtherPatternsAreNoSymbol := by
  intro s b hn h1 h0
  rw [step_expand s b hn, if_neg h1, if_neg h0]

/-- Settles O1: a word that decodes is executed, after its input is taken from the head of the script or drawn. -/
theorem stepRunsDecodedInstruction : Obligations.StepRunsDecodedInstruction := by
  refine ⟨fun s w rdy i hn hd => ?_, fun s b i hn hd => ?_, fun s x xs => nextInput_cons, fun s h => ?_⟩
  · simp [step, hn, runCycle, runWord, hd, State.setReady]
  · simp [step, hn, runWord, hd]
  · simp [State.nextInput, State.popInput, h]

/-- Settles O19: the symbol operations write `symOut` and no other field. -/
theorem symbolOperationsGiveTheirPattern : Obligations.SymbolOperationsGiveTheirPattern :=
  fun _ => ⟨rfl, rfl⟩

end Sys2Proof.Proofs
end

section
/-! PROOFS. One step: what a cycle does to each register, by the equations of R174, and from that the read data, the
host's registers, the flags, the interrupt, and the invariant of good states. -/

namespace Sys2Proof.Proofs

open Sys2Proof.Machine Sys2Proof.Safety Sys2Proof.Laws

/-! ## Reads (R52, R57, R100) -/

theorem busRead_pixel (s : State) (a : BitVec 8) (h : a.toNat < 64) :
    s.busRead a = (s.pix[a.toNat]'h).setWidth 32 := by
  have hidx : (a.extractLsb' 0 6).toNat = a.toNat := by
    simp only [BitVec.extractLsb'_toNat, Nat.shiftRight_zero]
    omega
  simp only [State.busRead, if_pos h, State.readPix, State.pixAt, hidx]

theorem busRead_ledCount (s : State) (a : BitVec 8) (h : a.toNat = 0x40) : s.busRead a = s.readLedCount := by
  rw [BitVec.eq_of_toNat_eq (y := 0x40#8) h]; rfl

theorem busRead_ctrl (s : State) (a : BitVec 8) (h : a.toNat = 0x41) : s.busRead a = s.readCtrl := by
  rw [BitVec.eq_of_toNat_eq (y := 0x41#8) h]; rfl

theorem busRead_status (s : State) (a : BitVec 8) (h : a.toNat = 0x42) : s.busRead a = s.readStatus := by
  rw [BitVec.eq_of_toNat_eq (y := 0x42#8) h]; rfl

theorem busRead_reserved (s : State) (a : BitVec 8) (h : 0x43 ≤ a.toNat) : s.busRead a = 0 := by
  have hne (k : BitVec 8) (hk : k.toNat < 0x43) : a ≠ k := fun he => by subst he; omega
  rw [State.busRead, if_neg (by omega), if_neg (hne _ (by decide)), if_neg (hne _ (by decide)),
    if_neg (hne _ (by decide))]

theorem rdata_read {s : State} {w : Txn} (he : w.en = true) (hw : w.we = false) : s.rdata w = s.busRead w.addr := by
  simp [State.rdata, he, hw]

theorem rdata_eq_zero {s : State} {w : Txn} (h : ¬(w.en = true ∧ w.we = false)) : s.rdata w = 0 := by
  rw [State.rdata, if_neg (by simpa using h)]

/-- Settles O22: in a read cycle, by the register at the address; no other cycle drives the bus. -/
theorem busReadFollowsTheAddressMap : Obligations.BusReadFollowsTheAddressMap := by
  intro s t w rdy rst hn ht
  rw [cycle_busRdata hn ht]
  refine ⟨rdata_eq_zero, fun ⟨he, hw⟩ => ?_⟩
  rw [rdata_read he hw, ← readCtrl_eq, ← readStatus_eq]
  exact ⟨busRead_pixel s w.addr, busRead_ledCount s w.addr, busRead_ctrl s w.addr, busRead_status s w.addr,
    busRead_reserved s w.addr⟩

/-- A read asks nothing of the edge (R57). -/
theorem exec_read {i : Instr} (s : State) (hlo : 1 ≤ i.rowIndex) (hhi : i.rowIndex ≤ 10) :
    ∃ rd, exec i s = .next (clockEdge HostRequest.nothing rd s) := by
  cases i with
  | rdLedCount | rdCtrl | rdStatus | rdRsvd43 => exact ⟨_, rfl⟩
  | rdPix a | rdRsvd44 a | rdRsvd48 a | rdRsvd50 a | rdRsvd60 a | rdRsvd80 a => exact ⟨_, rfl⟩
  | _ => simp [Instr.rowIndex] at hlo hhi

/-- Settles O23: a read and NOP are the same edge but for the read data. -/
theorem readsHaveNoSideEffect : Obligations.ReadsHaveNoSideEffect := by
  intro i s t u hlo hhi ht hu
  obtain ⟨rd, hi⟩ := exec_read s hlo hhi
  cases hi.symm.trans ht
  cases hu
  rfl

/-! ## The registers after a cycle without reset, by the equations of R174 -/

section AfterCycle

variable {s t : State} {w : Txn} {rdy : Bool} (hn : s.nextInput = .cycle w rdy false) (ht : step s = .next t)
include hn ht

theorem pix_after_cycle : t.pix = if (writesPix w && !s.busy) = true
    then setPix s.pix (w.extractLsb' 32 6) (w.extractLsb' 0 24) else s.pix :=
  congrArg Arch.pix (archOf_after_cycle hn ht)

theorem ledCount_after_cycle : t.ledCount =
    if (writesTo w 0x40 && !s.busy) = true then w.extractLsb' 0 8 else s.ledCount :=
  congrArg Arch.ledCount (archOf_after_cycle hn ht)

theorem irqEn_after_cycle : t.irqEn = if writesTo w 0x41 = true then w.getLsbD 1 else s.irqEn :=
  congrArg Arch.irqEn (archOf_after_cycle hn ht)

theorem pos_after_cycle : t.pos =
    if (isStart w && !s.busy && legalCount s.ledCount ||
      s.busy && rdy && s.pos.toNat == 15 * s.ledCount.toNat + 1) = true then 0
    else if (s.busy && rdy) = true then s.pos + 1 else s.pos :=
  congrArg Arch.pos (archOf_after_cycle hn ht)

/-- A transfer adds the byte at `POS` of the row held (R171, R172). -/
theorem emitted_after_cycle_rowByte : t.emitted = s.emitted ++
    if s.busy = true ∧ rdy = true then [rowByte s.gamma s.pix s.ledCount.toNat s.pos.toNat] else [] := by
  obtain ⟨t', ht', hcycle, -⟩ := stepRefinesTheCycleEquations s w rdy false hn
  cases ht.symm.trans ht'
  rw [(hcycle rfl).2, portsAreFunctionsOfTheHeldState s t w rdy false hn ht]
  by_cases hb : s.busy = true <;> simp [portsR29, hb]

/-- While busy no write reaches the row (R202). -/
theorem row_held_while_busy (hb : s.busy = true) : t.pix = s.pix ∧ t.ledCount = s.ledCount := by
  simp [pix_after_cycle hn ht, ledCount_after_cycle hn ht, hb]

/-- The word of a START writes no row register. -/
theorem row_held_at_start (hs : isStart w = true) : t.pix = s.pix ∧ t.ledCount = s.ledCount := by
  have h40 : writesTo w 0x40 = false := writesTo_other (writesTo_of_isStart hs) (by decide)
  simp [pix_after_cycle hn ht, ledCount_after_cycle hn ht, not_writesPix_of_isStart hs, h40]

/-- The accepted START of an idle block (R106). -/
theorem after_start (hb : s.busy = false) (hs : isStart w = true) (hc : legalCount s.ledCount = true) :
    t.busy = true ∧ t.pos = 0 ∧ t.done = false := by
  simp [busy_after_cycle hn ht, pos_after_cycle hn ht, done_after_cycle hn ht, hb, hs, hc]

/-- The cycle of the last transfer (R173). -/
theorem after_lastTransfer (hb : s.busy = true) (hr : rdy = true) (hp : s.pos.toNat = 15 * s.ledCount.toNat + 1) :
    t.busy = false ∧ t.pos = 0 ∧ t.done = true := by
  simp [busy_after_cycle hn ht, pos_after_cycle hn ht, done_after_cycle hn ht, hb, hr, hp]

/-- A busy cycle that is not that of the last transfer: `POS` moves on by the byte taken, if one is (R172). -/
theorem after_busy_cycle (hb : s.busy = true) (hl : ¬(rdy = true ∧ s.pos.toNat = 15 * s.ledCount.toNat + 1)) :
    t.busy = true ∧ t.pos = (if rdy = true then s.pos + 1 else s.pos) ∧ (s.done = false → t.done = false) := by
  have hlast : (rdy && s.pos.toNat == 15 * s.ledCount.toNat + 1) = false := by simpa using hl
  simp +contextual [busy_after_cycle hn ht, pos_after_cycle hn ht, done_after_cycle hn ht, hb, hlast]

/-- An idle block that takes no START stays idle where it is (R177). -/
theorem after_idle_cycle (hb : s.busy = false) (hs : (isStart w && legalCount s.ledCount) = false) :
    t.busy = false ∧ t.pos = s.pos := by
  simp only [Bool.and_eq_false_iff] at hs
  obtain hs | hs := hs <;> simp [busy_after_cycle hn ht, pos_after_cycle hn ht, hb, hs]

end AfterCycle

/-! ## The invariant of good states -/

theorem legalCount_iff (n : BitVec 8) : legalCount n = true ↔ 1 ≤ n.toNat ∧ n.toNat ≤ 64 := by
  simp [legalCount]

/-- Within a frame of at most 64 LEDs `POS` does not wrap (R26). -/
theorem pos_succ_toNat {p : BitVec 10} {n : Nat} (hn : n ≤ 64) (hp : p.toNat ≤ 15 * n + 1) :
    (p + 1).toNat = p.toNat + 1 := by
  have h1 : (1 : BitVec 10).toNat = 1 := rfl
  rw [BitVec.toNat_add, h1]
  omega

theorem goodState_of_idle {s : State} (hb : s.busy = false) (hp : s.pos = 0) : GoodState s := by
  simp [GoodState, hb, hp]

theorem goodState_of_busy {s : State} (hb : s.busy = true) (hc : 1 ≤ s.ledCount.toNat ∧ s.ledCount.toNat ≤ 64)
    (hp : s.pos.toNat ≤ 15 * s.ledCount.toNat + 1) (hd : s.done = false) : GoodState s := by
  simp [GoodState, hb, hc, hp, hd]

/-- A cycle of a busy block: the last transfer leaves it idle at 0, any other leaves `POS` within the frame. -/
theorem busyCycle_keeps_good {s t : State} {w : Txn} {rdy : Bool} (hn : s.nextInput = .cycle w rdy false)
    (ht : step s = .next t) (hg : GoodState s) (hb : s.busy = true) : GoodState t := by
  obtain ⟨h1, h64, hp, hd⟩ := hg.1 hb
  obtain ⟨-, hcount⟩ := row_held_while_busy hn ht hb
  by_cases hl : rdy = true ∧ s.pos.toNat = 15 * s.ledCount.toNat + 1
  · obtain ⟨hbusy, hpos, -⟩ := after_lastTransfer hn ht hb hl.1 hl.2
    exact goodState_of_idle hbusy hpos
  · obtain ⟨hbusy, hpos, hdone⟩ := after_busy_cycle hn ht hb hl
    refine goodState_of_busy hbusy (hcount ▸ ⟨h1, h64⟩) ?_ (hdone hd)
    rw [hcount, hpos]
    split_ifs with hr
    · rw [pos_succ_toNat h64 hp]
      have hlt : s.pos.toNat ≠ 15 * s.ledCount.toNat + 1 := fun h => hl ⟨hr, h⟩
      omega
    · exact hp

/-- A cycle of an idle block: an accepted START is of a legal count and clears `DONE`; else the block stays at 0. -/
theorem idleCycle_keeps_good {s t : State} {w : Txn} {rdy : Bool} (hn : s.nextInput = .cycle w rdy false)
    (ht : step s = .next t) (hg : GoodState s) (hb : s.busy = false) : GoodState t := by
  cases hs : isStart w && legalCount s.ledCount with
  | true =>
    obtain ⟨hw, hc⟩ := Bool.and_eq_true_iff.mp hs
    obtain ⟨hbusy, hpos, hdone⟩ := after_start hn ht hb hw hc
    obtain ⟨-, hcount⟩ := row_held_at_start hn ht hw
    exact goodState_of_busy hbusy (hcount ▸ (legalCount_iff _).mp hc) (by simp [hpos]) hdone
  | false =>
    obtain ⟨hbusy, hpos⟩ := after_idle_cycle hn ht hb hs
    exact goodState_of_idle hbusy (hpos.trans (hg.2 hb))

/-- Settles O28, by the shape of the step and, in a cycle without reset, by `BUSY`. -/
theorem everyStepKeepsTheInvariant : Obligations.EveryStepKeepsTheInvariant := by
  intro s t hg ht
  obtain ⟨w, rdy, -, rfl⟩ | ⟨w, rdy, hn, -⟩ | ⟨b, v, -, rfl⟩ := step_cases ht
  · exact goodState_of_idle (resetEdge_busy _ _) (resetEdge_pos _ _)
  · cases hb : s.busy with
    | true => exact busyCycle_keeps_good hn ht hg hb
    | false => exact idleCycle_keeps_good hn ht hg hb
  · simpa [GoodState] using hg

/-- Settles O27: the block is idle at 0 after reset. -/
theorem resetStateMeetsTheInvariant : Obligations.ResetStateMeetsTheInvariant :=
  goodState_of_idle rfl rfl

/-- Settles O26, field by field. -/
theorem resetStateIsQuiescent : Obligations.ResetStateIsQuiescent :=
  ⟨rfl, rfl, rfl, rfl, rfl, rfl, rfl, rfl⟩

/-- Settles O25: the draw of a reset edge is the one its state numbers, since taking the script's cycle makes none. -/
theorem resetEdgeDrawsEveryPixel : Obligations.ResetEdgeDrawsEveryPixel := by
  intro s w rdy xs h
  obtain ⟨hn, hpop⟩ := nextInput_cons h
  have hdraws : (s.popInput.setReady rdy).draws = s.draws := by rw [setReady_draws, hpop]
  refine ⟨_, step_reset s w rdy hn, fun i => ?_, ?_⟩
  · simp only [resetEdge_pix, hdraws]
    exact freePix_getElem s.draws i
  · rw [resetEdge_draws, hdraws]

/-! ## What a cycle without reset changes, and why -/

/-- A write decodes to the operation of the register at its address. -/
theorem decodeTxn_of_writesPix {w : Txn} (h : writesPix w = true) :
    decodeTxn w = .wrPix (w.extractLsb' 32 6) w.wdata := by
  simp only [writesPix, Bool.and_eq_true, decide_eq_true_eq] at h
  obtain ⟨⟨he, hw⟩, ha⟩ := h
  rw [← addr_index]
  exact decodeTxn_asWrite he hw (decodeRead_pixel w.addr ha)

theorem decodeTxn_of_writesTo {w : Txn} {a : Nat} {i : Instr} (h : writesTo w a = true)
    (hi : w.addr.toNat = a → decodeRead w.addr = i) : decodeTxn w = asWrite w.wdata i := by
  simp only [writesTo, Bool.and_eq_true, beq_iff_eq] at h
  obtain ⟨⟨he, hw⟩, ha⟩ := h
  exact decodeTxn_asWrite he hw (hi ha)

theorem extractLsb'_eq_wdata (w : Txn) {n : Nat} (h : n ≤ 32) : w.extractLsb' 0 n = w.wdata.setWidth n := by
  refine BitVec.eq_of_getLsbD_eq fun i hi => ?_
  have hi32 : i < 32 := by omega
  simp [Txn.wdata, hi, hi32]

theorem setPix_getElem (P : PixStore) (k i : BitVec 6) (c : Color) :
    (setPix P k c)[i.toNat]'i.isLt = if k = i then c else P[i.toNat]'i.isLt := by
  simp only [setPix, Vector.getElem_set, BitVec.toNat_inj]

/-- Settles O30: a register that changes took the data of the write its equation names, the row registers only while
idle. -/
theorem hostRegistersChangeOnlyByTheirWrite : Obligations.HostRegistersChangeOnlyByTheirWrite := by
  intro s t w rdy hn ht
  refine ⟨fun i hne => ?_, fun hne => ?_, fun hne => ?_⟩
  · rw [pix_after_cycle hn ht] at hne ⊢
    split_ifs at hne ⊢ with h
    · obtain ⟨hw, hb⟩ := Bool.and_eq_true_iff.mp h
      rw [setPix_getElem] at hne ⊢
      split_ifs at hne ⊢ with hi
      · exact ⟨by simpa using hb, w.wdata, hi ▸ decodeTxn_of_writesPix hw, extractLsb'_eq_wdata w (by decide)⟩
      · exact absurd rfl hne
    · exact absurd rfl hne
  · rw [ledCount_after_cycle hn ht] at hne ⊢
    split_ifs at hne ⊢ with h
    · obtain ⟨hw, hb⟩ := Bool.and_eq_true_iff.mp h
      exact ⟨by simpa using hb, w.wdata, decodeTxn_of_writesTo hw (decodeRead_ledCount w.addr),
        extractLsb'_eq_wdata w (by decide)⟩
    · exact absurd rfl hne
  · rw [irqEn_after_cycle hn ht] at hne ⊢
    split_ifs at hne ⊢ with h
    · exact ⟨w.wdata, decodeTxn_of_writesTo h (decodeRead_ctrl w.addr), (wdata_bit w 1 (by decide)).symm⟩
    · exact absurd rfl hne

/-- Settles O34: each flag's equation keeps a flag that is set but for its clear request, and `DONE` but for a START. -/
theorem flagsAreSticky : Obligations.FlagsAreSticky := by
  intro s t w rdy hn ht
  refine ⟨fun hs h => ?_, fun hs h => ?_, fun hs h => ?_⟩
  · rw [done_after_cycle hn ht, hs] at h
    simpa [and_assoc, or_iff_not_imp_left] using (Bool.or_eq_false_iff.mp h).2
  · rw [errCount_after_cycle hn ht, hs] at h
    simpa using (Bool.or_eq_false_iff.mp h).2
  · rw [errOvr_after_cycle hn ht, hs] at h
    simpa using (Bool.or_eq_false_iff.mp h).2

theorem irq_iff (s : State) :
    (portsR29 0 s).irq = true ↔ s.irqEn = true ∧ (s.done = true ∨ s.errCount = true ∨ s.errOvr = true) := by
  simp [portsR29, or_assoc]

/-- Settles O36: either `IRQ_EN` fell, by a write of `CTRL`, or the flag that was set did. -/
theorem interruptFallsOnlyAsStated : Obligations.InterruptFallsOnlyAsStated := by
  intro s t w rdy hn ht hs hf
  obtain ⟨hen, hflag⟩ := (irq_iff s).mp hs
  obtain ⟨hdone, hcnt, hovr⟩ := flagsAreSticky s t w rdy hn ht
  cases hen' : t.irqEn with
  | false =>
    rw [irqEn_after_cycle hn ht, hen] at hen'
    exact .inl (by simpa using hen')
  | true =>
    simp only [portsR29, hen', Bool.true_and, Bool.or_eq_false_iff] at hf
    obtain ⟨⟨hd, hc⟩, ho⟩ := hf
    right
    obtain h | h | h := hflag
    · exact (hdone h hd).imp_left fun ⟨hw, hbit⟩ => ⟨hw, .inl hbit⟩
    · obtain ⟨hw, hbit⟩ := hcnt h hc
      exact .inl ⟨hw, .inr (.inl hbit)⟩
    · obtain ⟨hw, hbit⟩ := hovr h ho
      exact .inl ⟨hw, .inr (.inr hbit)⟩

/-- Settles O37: in a stall neither the row nor `POS` moves, and the offered byte is a function of these. -/
theorem offeredByteIsHeldDuringAStall : Obligations.OfferedByteIsHeldDuringAStall := by
  intro s t w hn hb ht
  obtain ⟨hpix, hcount⟩ := row_held_while_busy hn ht hb
  obtain ⟨hbusy, hpos, -⟩ := after_busy_cycle hn ht hb (by simp)
  have hpos' : t.pos = s.pos := hpos
  simp only [portsR29, hpix, hcount, step_gamma ht, hpos', hbusy, hb, and_self]

/-- A word that is no write asks for nothing. -/
theorem stepEquations_idle {a : Arch} {w : Txn} (rdy : Bool) (hb : a.busy = false)
    (hw : (w.getLsbD 41 && w.getLsbD 40) = false) : stepEquations a w rdy = a := by
  obtain ⟨pix, count, irqEn, busy, pos, done, cnt, ovr⟩ := a
  obtain rfl : busy = false := hb
  have hpix : writesPix w = false := by rw [writesPix, hw, Bool.false_and]
  have hreg (k : Nat) : writesTo w k = false := by rw [writesTo, hw, Bool.false_and]
  have hstart : isStart w = false := by rw [isStart, hreg, Bool.false_and]
  simp [stepEquations, hpix, hreg, hstart]

/-- Settles O38: an idle block moves only by the word's requests, and transfers nothing. -/
theorem quiescentBlockRests : Obligations.QuiescentBlockRests := by
  intro s t w rdy hn hb hw ht
  refine ⟨(archOf_after_cycle hn ht).trans (stepEquations_idle rdy hb hw), ?_⟩
  simp [emitted_after_cycle_rowByte hn ht, hb]

end Sys2Proof.Proofs
end

section
/-! PROOFS. Whole encodes: over any run without reset the bytes emitted are the first of the frame of the row held at the
START, one byte for each ready cycle (R175, R176, R150). -/

namespace Sys2Proof.Proofs

open Sys2Proof.Machine Sys2Proof.Safety Sys2Proof.Laws

/-! ## The row frame -/

/-- Settles O44: the frame reads the pixel store only through its first `n` cells. -/
theorem frameDependsOnTheRowOnly : Obligations.FrameDependsOnTheRowOnly := by
  intro g P Q n _ h
  have hrow : P.toList.take n = Q.toList.take n := by
    refine List.ext_getElem (by simp) fun i hi _ => ?_
    simp only [List.length_take, Vector.length_toList, lt_min_iff] at hi
    simpa using h i hi.2 hi.1
  rw [encodeRow, encodeRow, hrow]

/-- The frame's first bytes grow by the byte at the next index. -/
theorem encodeRow_take_succ (g : Gamma) (P : PixStore) {n k : Nat} (hn : n ≤ 64) (hk : k ≤ 15 * n + 1) :
    (encodeRow g P n).take (k + 1) = (encodeRow g P n).take k ++ [rowByte g P n k] := by
  rw [List.take_add_one, encodeRow_getElem? g P hn hk, Option.toList_some]

theorem encodeRow_take_all (g : Gamma) (P : PixStore) {n : Nat} (hn : n ≤ 64) :
    (encodeRow g P n).take (15 * n + 2) = encodeRow g P n := by
  rw [← encodeRow_length g P hn, List.take_length]

/-! ## The encode after `k` transfers -/

/-- The row frame of the row a state holds. -/
def frameOf (s : State) : List Byte := encodeRow s.gamma s.pix s.ledCount.toNat

/-- The state `s` is busy with the row that `s₀` holds, at byte `k` of its frame. -/
structure SendsAt (s₀ : State) (k : Nat) (s : State) : Prop where
  busy : s.busy = true
  pos : s.pos.toNat = k
  gamma : s.gamma = s₀.gamma
  pix : s.pix = s₀.pix
  count : s.ledCount = s₀.ledCount

/-- The state `s` has emitted the first `k` bytes of the frame of `s₀` since `s₀`, and until these are all of them it
is busy at the next. -/
structure Emitted (s₀ : State) (k : Nat) (s : State) : Prop where
  bytes : s.emitted = s₀.emitted ++ (frameOf s₀).take k
  sends : k < 15 * s₀.ledCount.toNat + 2 → SendsAt s₀ k s

section Cycle

variable {s₀ s t : State} {k : Nat} {w : Txn}

/-- A stall emits nothing and leaves the encode where it is, whatever the host asks. -/
theorem Emitted.stall (h : Emitted s₀ k s) (hn : s.nextInput = .cycle w false false) (ht : step s = .next t) :
    Emitted s₀ k t := by
  refine ⟨?_, fun hk => ?_⟩
  · simp [emitted_after_cycle_rowByte hn ht, h.bytes]
  · obtain ⟨hb, hp, hg, hpix, hc⟩ := h.sends hk
    obtain ⟨hpix', hc'⟩ := row_held_while_busy hn ht hb
    obtain ⟨hb', hp', -⟩ := after_busy_cycle hn ht hb (by simp)
    exact ⟨hb', (congrArg _ hp').trans hp, (step_gamma ht).trans hg, hpix'.trans hpix, hc'.trans hc⟩

/-- A ready cycle emits the next byte, and it leaves the block busy at the one after it, if there is one. -/
theorem Emitted.transfer (h : Emitted s₀ k s) (hlegal : s₀.ledCount.toNat ≤ 64) (hk : k < 15 * s₀.ledCount.toNat + 2)
    (hn : s.nextInput = .cycle w true false) (ht : step s = .next t) : Emitted s₀ (k + 1) t := by
  obtain ⟨hb, hp, hg, hpix, hc⟩ := h.sends hk
  refine ⟨?_, fun hk' => ?_⟩
  · rw [frameOf, encodeRow_take_succ _ _ hlegal (by omega), ← List.append_assoc]
    simp [emitted_after_cycle_rowByte hn ht, h.bytes, frameOf, hb, hp, hg, hpix, hc]
  · obtain ⟨hpix', hc'⟩ := row_held_while_busy hn ht hb
    obtain ⟨hb', hp', -⟩ := after_busy_cycle hn ht hb (by rw [hp, hc]; omega)
    have hpos : t.pos.toNat = k + 1 := by
      rw [hp', if_pos rfl, pos_succ_toNat hlegal (by omega), hp]
    exact ⟨hb', hpos, (step_gamma ht).trans hg, hpix'.trans hpix, hc'.trans hc⟩

/-- The cycle of an accepted START: nothing is emitted yet, and the row is the one held before the edge. -/
theorem emitted_of_start {rdy : Bool} (hn : s.nextInput = .cycle w rdy false) (ht : step s = .next t)
    (hb : s.busy = false) (hs : isStart w = true) (hc : legalCount s.ledCount = true) : Emitted s 0 t := by
  obtain ⟨hb', hp', -⟩ := after_start hn ht hb hs hc
  obtain ⟨hpix, hcount⟩ := row_held_at_start hn ht hs
  refine ⟨?_, fun _ => ⟨hb', congrArg _ hp', step_gamma ht, hpix, hcount⟩⟩
  simp [emitted_after_cycle_rowByte hn ht, hb]

end Cycle

/-! ## Runs -/

/-- A step takes the head of the script and no more. -/
theorem inputs_after_step {s t : State} {x : Input} {xs : List Input} (h : s.inputs = x :: xs)
    (ht : step s = .next t) : t.inputs = xs := by
  have hpop : s.popInput.inputs = xs := by rw [(nextInput_cons h).2]
  obtain ⟨w, rdy, -, rfl⟩ | ⟨w, rdy, -, rfl⟩ | ⟨b, v, -, rfl⟩ := step_cases ht
  · rw [resetEdge_inputs, setReady_inputs, hpop]
  · rw [clockEdge_inputs, setReady_inputs, hpop]
  · rw [symOp_inputs, hpop]

theorem readyCount_cons_ready (w : Txn) (cs : List (Txn × Bool)) :
    readyCount ((w, true) :: cs) = readyCount cs + 1 :=
  List.countP_cons_of_pos rfl

/-- A script of cycles runs to its end, and each ready cycle of it, up to the frame's length, emits a byte. -/
theorem run_script_emits {s₀ : State} (hlegal : s₀.ledCount.toNat ≤ 64) (cs : List (Txn × Bool)) :
    ∀ {s : State} {k : Nat} {rest : List Input}, s.inputs = script cs ++ rest → Emitted s₀ k s →
      k + readyCount cs ≤ 15 * s₀.ledCount.toNat + 2 →
      ∃ t, core.run cs.length s = .next t ∧ Emitted s₀ (k + readyCount cs) t ∧ t.inputs = rest := by
  induction cs with
  | nil => exact fun hin h _ => ⟨_, rfl, h, hin⟩
  | cons c cs ih =>
    obtain ⟨w, rdy⟩ := c
    intro s k rest hin h hk
    have hin' : s.inputs = .cycle w rdy false :: (script cs ++ rest) := hin
    have hn := (nextInput_cons hin').1
    obtain ⟨t, ht⟩ := step_cycle_next s w rdy false hn
    have htin := inputs_after_step hin' ht
    rw [List.length_cons, run_succ _ ht]
    cases rdy with
    | false => exact ih htin (h.stall hn ht) hk
    | true =>
      have hcount : k + readyCount ((w, true) :: cs) = k + 1 + readyCount cs := by
        rw [readyCount_cons_ready, Nat.add_assoc, Nat.add_comm 1]
      rw [hcount] at hk ⊢
      exact ih htin (h.transfer hlegal (by omega) hn ht) hk

/-- A run that ends took its first step. -/
theorem run_succ_inv {s t : State} {k : Nat} (h : core.run (k + 1) s = .next t) :
    ∃ s', step s = .next s' ∧ core.run k s' = .next t := by
  cases hs : step s with
  | next s' => exact ⟨s', rfl, (run_succ k hs).symm.trans h⟩
  | fault f => exact nomatch f
  | refused r =>
    have hs' : core.step s = .refused r := hs
    simp only [Host.Core.run, hs'] at h
    cases h

/-- Every state a run from a good state reaches is good. -/
theorem run_keeps_good {s t : State} (k : Nat) (hg : GoodState s) (h : core.run k s = .next t) : GoodState t := by
  induction k generalizing s with
  | zero => cases h; exact hg
  | succ k ih =>
    obtain ⟨s', hs, h'⟩ := run_succ_inv h
    exact ih (everyStepKeepsTheInvariant s s' hg hs) h'

/-- The run of an accepted START and the cycles after it. -/
theorem run_from_start {s : State} {w : Txn} {rdy : Bool} {cs : List (Txn × Bool)} {rest : List Input}
    (hb : s.busy = false) (hs : isStart w = true) (h1 : 1 ≤ s.ledCount.toNat) (h64 : s.ledCount.toNat ≤ 64)
    (hin : s.inputs = .cycle w rdy false :: script cs ++ rest) (hk : readyCount cs ≤ 15 * s.ledCount.toNat + 2) :
    ∃ t, core.run (cs.length + 1) s = .next t ∧ Emitted s (readyCount cs) t ∧ GoodState t ∧ t.inputs = rest := by
  have hn := (nextInput_cons hin).1
  have hc := (legalCount_iff s.ledCount).mpr ⟨h1, h64⟩
  obtain ⟨s', hs'⟩ := step_cycle_next s w rdy false hn
  obtain ⟨hb', hp', hd'⟩ := after_start hn hs' hb hs hc
  have hgood : GoodState s' :=
    goodState_of_busy hb' ((row_held_at_start hn hs' hs).2 ▸ ⟨h1, h64⟩) (by simp [hp']) hd'
  have h0 : 0 + readyCount cs = readyCount cs := Nat.zero_add _
  obtain ⟨t, ht, hem, hrest⟩ := run_script_emits h64 cs (inputs_after_step hin hs')
    (emitted_of_start hn hs' hb hs hc) (h0.symm ▸ hk)
  exact ⟨t, (run_succ _ hs').trans ht, h0 ▸ hem, run_keeps_good _ hgood ht, hrest⟩

/-! ## The obligations -/

/-- Settles O46: the bytes are those of the invariant of the run, and a busy state of a run from a good one is not
done. -/
theorem emittedBytesAreEncodeRow : Obligations.EmittedBytesAreEncodeRow := by
  intro s w rdy cs rest hb hs h1 h64 hin hk
  obtain ⟨t, ht, hem, hgood, -⟩ := run_from_start hb hs h1 h64 hin hk
  refine ⟨t, ht, hem.bytes, fun hlt => ?_⟩
  obtain ⟨hb', hp, -, hpix, hc⟩ := hem.sends hlt
  obtain ⟨-, -, -, hd⟩ := hgood.1 hb'
  exact ⟨hb', hd, hp, hpix, hc⟩

/-- Settles O47: after `15n + 1` transfers the block offers the last byte, and one more transfer is the last. -/
theorem encodeEndsAtTheLastAcceptance : Obligations.EncodeEndsAtTheLastAcceptance := by
  intro s w rdy cs v rest hb hs h1 h64 hin hk
  have hin' : s.inputs = .cycle w rdy false :: script cs ++ (script [(v, true)] ++ rest) := by
    rw [hin]; simp [script]
  obtain ⟨t, ht, hem, hgood, htin⟩ := run_from_start hb hs h1 h64 hin' (by omega)
  rw [hk] at hem
  obtain ⟨htb, htp, -, -, htc⟩ := hem.sends (by omega)
  have hlast : t.pos.toNat = 15 * t.ledCount.toNat + 1 := by rw [htp, htc]
  have hn := (nextInput_cons htin).1
  obtain ⟨u, hu⟩ := step_cycle_next t v true false hn
  obtain ⟨hub, hup, hud⟩ := after_lastTransfer hn hu htb rfl hlast
  have hbytes := (hem.transfer h64 (by omega) hn hu).bytes
  rw [frameOf, encodeRow_take_all _ _ h64] at hbytes
  obtain ⟨-, -, -, hd⟩ := hgood.1 htb
  exact ⟨t, u, ht, htb, hd, by simp [portsR29, htb, hlast],
    (run_add (cs.length + 1) 1 ht).trans (run_succ 0 hu), hub, hud, hup, hbytes⟩

/-- A block at the first byte of its frame has emitted none of it. -/
theorem emitted_self {s : State} (hb : s.busy = true) (hp : s.pos = 0) : Emitted s 0 s :=
  ⟨by simp, fun _ => ⟨hb, congrArg _ hp, rfl, rfl, rfl⟩⟩

/-- From the first byte on, a run over a script adds the frame's first bytes and nothing else. -/
theorem run_emits_first_bytes {s t : State} {cs : List (Txn × Bool)} {rest : List Input} (hb : s.busy = true)
    (hp : s.pos = 0) (h64 : s.ledCount.toNat ≤ 64) (hin : s.inputs = script cs ++ rest)
    (hk : readyCount cs ≤ 15 * s.ledCount.toNat + 2) (ht : core.run cs.length s = .next t) :
    t.emitted = s.emitted ++ (frameOf s).take (readyCount cs) := by
  obtain ⟨t', ht', hem, -⟩ := run_script_emits h64 cs hin (emitted_self hb hp) (by omega)
  cases ht.symm.trans ht'
  rw [hem.bytes, Nat.zero_add]

/-- Settles O48: each run adds the first bytes of its own frame, as many, and the two frames are equal. -/
theorem stallsAndHostTrafficDoNotChangeTheBytes : Obligations.StallsAndHostTrafficDoNotChangeTheBytes := by
  intro s1 s2 t1 t2 cs1 cs2 r1 r2 hb1 hb2 hp1 hp2 he hg hc _ h64 hpix hin1 hin2 hk hle ht1 ht2
  have hframe : frameOf s1 = frameOf s2 := by
    rw [frameOf, frameOf, ← hg, ← hc]
    exact frameDependsOnTheRowOnly _ _ _ _ h64 hpix
  calc t1.emitted
      = s1.emitted ++ (frameOf s1).take (readyCount cs1) := run_emits_first_bytes hb1 hp1 h64 hin1 hle ht1
    _ = s2.emitted ++ (frameOf s2).take (readyCount cs2) := by rw [he, hframe, hk]
    _ = t2.emitted := (run_emits_first_bytes hb2 hp2 (hc ▸ h64) hin2 (hc ▸ hk ▸ hle) ht2).symm

end Sys2Proof.Proofs
end

section
/-! PROOFS. The default correction table (R141, R142), host scripts (R83) and durations on the line (R243). -/

namespace Sys2Proof.Proofs

open Sys2Proof.Machine Sys2Proof.Safety Sys2Proof.Laws

/-! ## The default table -/

theorem gammaDefault_rounds : ∀ v : Byte, (2 * (correct gammaDefault v).toNat + 1) ^ 32 < 2 ^ (v.toNat + 32) + 1 ∧
    2 ^ (v.toNat + 32) < (2 * (correct gammaDefault v).toNat + 3) ^ 32 := by decide +kernel

theorem gammaDefault_nondecreasing : gammaDefault.toList.Pairwise (fun c d => c.toNat ≤ d.toNat) := by decide +kernel

/-- A non-decreasing table corrects larger values to larger ones. -/
theorem correct_le_correct {g : Gamma} (hg : g.toList.Pairwise (fun c d => c.toNat ≤ d.toNat)) {u v : Byte}
    (huv : u.toNat ≤ v.toNat) : correct g u ≤ correct g v := by
  rcases huv.eq_or_lt with he | hlt
  · rw [BitVec.eq_of_toNat_eq he]
    exact BitVec.le_refl _
  · have hentry (x : Byte) : x.toNat < g.toList.length := by rw [Vector.length_toList]; exact x.isLt
    exact List.pairwise_iff_getElem.mp hg u.toNat v.toNat (hentry u) (hentry v) hlt

theorem gammaBounded_of_nondecreasing {g : Gamma} (hg : g.toList.Pairwise (fun c d => c.toNat ≤ d.toNat)) :
    GammaBounded g :=
  fun v => ⟨correct_le_correct hg (Nat.zero_le _), correct_le_correct hg (Nat.le_of_lt_succ v.isLt)⟩

/-- Settles O45: the formula, the checksums and the order are facts of the 256 entries, evaluated; the bounds follow from
the order. -/
theorem defaultTableIsTheFormula : Obligations.DefaultTableIsTheFormula :=
  ⟨gammaDefault_rounds, by decide +kernel, by decide +kernel, gammaDefault_nondecreasing,
    gammaBounded_of_nondecreasing gammaDefault_nondecreasing⟩

/-! ## Host scripts -/

theorem loadFrom_length (k : Nat) (cells : List Word) : (loadFrom k cells).length = cells.length := by
  induction cells generalizing k with
  | nil => rfl
  | cons c cs ih => rw [loadFrom, List.length_cons, ih, List.length_cons]

theorem loadFrom_getElem? (k i : Nat) (cells : List Word) : (loadFrom k cells)[i]? =
    cells[i]?.map fun c => .one (.wr (.pix (BitVec.ofNat 6 (k + i))) c) := by
  induction cells generalizing k i with
  | nil => rfl
  | cons c cs ih =>
    cases i with
    | zero => rfl
    | succ i => rw [loadFrom, List.getElem?_cons_succ, List.getElem?_cons_succ, ih, Nat.add_right_comm, Nat.add_assoc]

theorem expand_ldrow {cells : List Word} (h : cells.length ≤ 64) : (Pseudo.ldrow cells).expand =
    some (loadFrom 0 cells ++ [.one (.wr .ledCount (BitVec.ofNat 32 cells.length))]) :=
  if_pos h

/-- A cycle of a polling loop ends it, or leaves it to the next cycle, by the read data. -/
theorem runScript_loop (c : Poll) {rdy : Bool} (rdys : List Bool) (items : List Item) {s t : State}
    (h : hostCycle (Stmt.rd .status).assemble rdy s = .next t) : runScript (rdy :: rdys) (.loop c :: items) s =
      runScript rdys (if c.met t.ports.busRdata = true then items else .loop c :: items) t := by
  rw [runScript, h]

/-- Settles O50: the fixed expansions by definition, a row's by its list of writes, a loop's by its first cycle. -/
theorem pseudoInstructionsExpand : Obligations.PseudoInstructionsExpand := by
  refine ⟨rfl, rfl, rfl, rfl, rfl, fun _ => rfl, fun cells hlen => ?_, fun _ => rfl, fun c rdy rdys items s t h => ?_⟩
  · refine ⟨_, expand_ldrow hlen, ?_, fun i hi => ?_, ?_⟩
    · rw [List.length_append, loadFrom_length, List.length_singleton]
    · rw [List.getElem?_append_left (by rwa [loadFrom_length]), loadFrom_getElem?, List.getElem?_eq_getElem hi,
        Option.map_some, Nat.zero_add]
    · rw [← loadFrom_length 0 cells, List.getElem?_concat_length]
  · rw [runScript_loop c rdys items h]
    cases c with
    | idle => simp only [Poll.met, Bool.not_eq_true']
    | done => rfl

/-! ## Durations -/

/-- Settles O51: eight bit periods for each byte of the frame, whose length is known, and the symbols' bits. -/
theorem lineDurationsFollowTheFrame : Obligations.LineDurationsFollowTheFrame := by
  refine ⟨fun g P n _ hn => ⟨?_, rfl, ?_⟩, rfl, rfl, rfl, by decide⟩
  · rw [encodeRow_length g P hn]; rfl
  · simp [frameSeconds, frameBitPeriods, frameLength]

end Sys2Proof.Proofs
end
